-- ==== Sys2Proof/Word.lean ====
section
/-! DEFINITION. The word types of the CHIP-8 core: bytes, 16-bit words, 12-bit addresses, nibbles,
register and key numbers (00_scope.md R8, R13; 10_state.md R20). -/

namespace Sys2Proof

/-- A byte: a general register, a memory location, an immediate `kk`, a timer. -/
abbrev Byte := BitVec 8

/-- A 16-bit word: an instruction word, `pc`, `I`, a call-stack slot. -/
abbrev Word := BitVec 16

/-- A 12-bit address field `nnn`. -/
abbrev Addr12 := BitVec 12

/-- A 4-bit field of an instruction word: the sprite height `n`, and the fields that are ignored. -/
abbrev Nibble := BitVec 4

/-- The number of a general register, V0 to VF. -/
abbrev Reg := Fin 16

/-- A logical key code, 0x0 to 0xF. -/
abbrev Key := Fin 16

/-- The register that doubles as the flag: VF is `V[15]` (10_state.md R22). -/
abbrev regF : Reg := 15

end Sys2Proof
end

