-- ==== Sys2Proof/Config.lean ====
section
/-! DEFINITION. What is fixed for the machine as a whole: the sizes of 00_scope.md R6, which the spec calls
constants of this hardware, and the one free value, the random byte of a tick. The named parameters
of R7 that a test could show wrong stand in Machine/Params.lean. -/

namespace Sys2Proof.Config

/-- Memory is 4096 bytes (R6). -/
abbrev memBytes : Nat := 4096

/-- The framebuffer is 64 columns by 32 rows (R6). -/
abbrev columns : Nat := 64

/-- The framebuffer is 64 columns by 32 rows (R6). -/
abbrev rows : Nat := 32

/-- The call stack has 16 entries (R6). -/
abbrev stackDepth : Nat := 16

/-- The random byte the host delivers with tick number `n`, where the script of tick inputs that State
holds is exhausted. It has no value that Lean could compute: "a free input byte of every tick, any
value" (R7, 42_alu.md R173). DESIGN CHOICE, log 2: safe. -/
opaque freeRnd : Nat → Byte

end Sys2Proof.Config
end

