-- ==== Sys2Proof/WellFormed.lean ====
section
/-! DEFINITION. Which instructions are written as the assembler syntax of 30_encoding.md R99 writes them. The
widths and ranges of all operands (R92) are in their types, so there is nothing to check about
them: "every value of x, y, kk, nnn, n is legal" (93_implementation_defined.md Part 2). What is left
to check is the four ignored fields: "SHR Vx and SHL Vx assemble with y = 0; SE Vx, Vy and
SNE Vx, Vy assemble with low nibble 0". A word that carries another value there is still
decoded and executed (R98, 42_alu.md R170); it is only not the canonical encoding. -/

namespace Sys2Proof

/-- The instruction is the one the assembler syntax emits: its ignored fields are zero. -/
def Instr.wellFormed : Instr → Bool
  | .cls => true
  | .ret => true
  | .jp _ => true
  | .call _ => true
  | .seImm _ _ => true
  | .sneImm _ _ => true
  | .seReg _ _ low => low == 0
  | .ldImm _ _ => true
  | .addImm _ _ => true
  | .mov _ _ => true
  | .or _ _ => true
  | .and _ _ => true
  | .xor _ _ => true
  | .add _ _ => true
  | .sub _ _ => true
  | .shr _ y => y == 0
  | .subn _ _ => true
  | .shl _ y => y == 0
  | .sneReg _ _ low => low == 0
  | .ldI _ => true
  | .jpV0 _ => true
  | .rnd _ _ => true
  | .drw _ _ _ => true
  | .skp _ => true
  | .sknp _ => true
  | .ldVxDt _ => true
  | .ldVxK _ => true
  | .ldDtVx _ => true
  | .ldStVx _ => true
  | .addI _ => true
  | .ldF _ => true
  | .ldB _ => true
  | .stRegs _ => true
  | .ldRegs _ => true

end Sys2Proof
end

