-- ==== Sys2Proof/Decode.lean ====
section
/-! DEFINITION. Decoding, total on every 16-bit word (30_encoding.md R93), the encoder written from the formats of
R91, and the opcode map of R94 as a table of masks. The byte order of an instruction in memory
is R90's: high byte first. -/

namespace Sys2Proof

/-! ## The fields of a word (00_scope.md R13) -/

/-- `op = w[15:12]`, the family. -/
def fieldOp (w : Word) : Nibble := w.extractLsb' 12 4

/-- `x = w[11:8]`. -/
def fieldX (w : Word) : Reg := (w.extractLsb' 8 4).toFin

/-- `y = w[7:4]`. -/
def fieldY (w : Word) : Reg := (w.extractLsb' 4 4).toFin

/-- `n = w[3:0]`. -/
def fieldN (w : Word) : Nibble := w.extractLsb' 0 4

/-- `kk = w[7:0]`. -/
def fieldKk (w : Word) : Byte := w.extractLsb' 0 8

/-- `nnn = w[11:0]`. -/
def fieldNnn (w : Word) : Addr12 := w.extractLsb' 0 12

/-! ## Decoding -/

/-- Why bytes are no instruction: the four sets of R97, each with the word, and too few bytes. -/
inductive DecodeError where
  /-- (a) `0nnn` with `nnn` neither 0x0E0 nor 0x0EE. -/
  | unknownFamily0 (w : Word)
  /-- (b) `8xyN` with N in 8, 9, A, B, C, D, F. -/
  | unknownFamily8 (w : Word)
  /-- (c) `ExKK` with KK neither 0x9E nor 0xA1. -/
  | unknownFamilyE (w : Word)
  /-- (d) `FxKK` with KK none of the nine low bytes. -/
  | unknownFamilyF (w : Word)
  /-- Fewer than two bytes; no fetch of the machine gives this. -/
  | truncated
  deriving DecidableEq, Repr

/-- Family 0 matches all of the low 12 bits (R93, `FAMILY0_KEY` = `exact12`, log 5). -/
def decodeFamily0 (w : Word) : Except DecodeError Instr :=
  if fieldNnn w = 0x0E0#12 then .ok .cls
  else if fieldNnn w = 0x0EE#12 then .ok .ret
  else .error (.unknownFamily0 w)

/-- Family 8 dispatches on the lowest nibble (R93). -/
def decodeFamily8 (w : Word) : Except DecodeError Instr :=
  match (fieldN w).toNat with
  | 0x0 => .ok (.mov (fieldX w) (fieldY w))
  | 0x1 => .ok (.or (fieldX w) (fieldY w))
  | 0x2 => .ok (.and (fieldX w) (fieldY w))
  | 0x3 => .ok (.xor (fieldX w) (fieldY w))
  | 0x4 => .ok (.add (fieldX w) (fieldY w))
  | 0x5 => .ok (.sub (fieldX w) (fieldY w))
  | 0x6 => .ok (.shr (fieldX w) (fieldY w))
  | 0x7 => .ok (.subn (fieldX w) (fieldY w))
  | 0xE => .ok (.shl (fieldX w) (fieldY w))
  | _ => .error (.unknownFamily8 w)

/-- Family E dispatches on the low byte (R93). -/
def decodeFamilyE (w : Word) : Except DecodeError Instr :=
  match (fieldKk w).toNat with
  | 0x9E => .ok (.skp (fieldX w))
  | 0xA1 => .ok (.sknp (fieldX w))
  | _ => .error (.unknownFamilyE w)

/-- Family F dispatches on the low byte (R93). -/
def decodeFamilyF (w : Word) : Except DecodeError Instr :=
  match (fieldKk w).toNat with
  | 0x07 => .ok (.ldVxDt (fieldX w))
  | 0x0A => .ok (.ldVxK (fieldX w))
  | 0x15 => .ok (.ldDtVx (fieldX w))
  | 0x18 => .ok (.ldStVx (fieldX w))
  | 0x1E => .ok (.addI (fieldX w))
  | 0x29 => .ok (.ldF (fieldX w))
  | 0x33 => .ok (.ldB (fieldX w))
  | 0x55 => .ok (.stRegs (fieldX w))
  | 0x65 => .ok (.ldRegs (fieldX w))
  | _ => .error (.unknownFamilyF w)

/-- The decode algorithm of R93: primary dispatch on the top nibble, secondary dispatch in families
0, 8, E and F only. The last arm is the family 0xF, the one value of a nibble not named before it.
The opcode numbers are PRESUMED by the spec (general knowledge; log 7). -/
def decode (w : Word) : Except DecodeError Instr :=
  match (fieldOp w).toNat with
  | 0x0 => decodeFamily0 w
  | 0x1 => .ok (.jp (fieldNnn w))
  | 0x2 => .ok (.call (fieldNnn w))
  | 0x3 => .ok (.seImm (fieldX w) (fieldKk w))
  | 0x4 => .ok (.sneImm (fieldX w) (fieldKk w))
  | 0x5 => .ok (.seReg (fieldX w) (fieldY w) (fieldN w))
  | 0x6 => .ok (.ldImm (fieldX w) (fieldKk w))
  | 0x7 => .ok (.addImm (fieldX w) (fieldKk w))
  | 0x8 => decodeFamily8 w
  | 0x9 => .ok (.sneReg (fieldX w) (fieldY w) (fieldN w))
  | 0xA => .ok (.ldI (fieldNnn w))
  | 0xB => .ok (.jpV0 (fieldNnn w))
  | 0xC => .ok (.rnd (fieldX w) (fieldKk w))
  | 0xD => .ok (.drw (fieldX w) (fieldY w) (fieldN w))
  | 0xE => decodeFamilyE w
  | _ => decodeFamilyF w

/-- An instruction word from its two bytes, "high byte at `pc`, low byte at `pc+1`" (20_memory.md R67). -/
def wordOfBytes (high low : Byte) : Word := high ++ low

/-- The two bytes of a word as they lie in memory, the high byte at the lower address (R67). -/
def bytesOfWord (w : Word) : List Byte := [w.extractLsb' 8 8, w.extractLsb' 0 8]

/-- The first instruction of a list of bytes and the bytes after it. Every instruction is two bytes (R90). -/
def decodeBytes : List Byte → Except DecodeError (Instr × List Byte)
  | high :: low :: rest =>
    match decode (wordOfBytes high low) with
    | .ok i => .ok (i, rest)
    | .error e => .error e
  | _ => .error .truncated

/-- The instruction the decoder reads from an instruction of `nbits` bits numbered as
spec/opcode_table.json numbers them; the bits above `nbits` are zero. The word is laid out in
memory order and given to `decodeBytes`. -/
def decodeTableWord (nbits w : Nat) : Option Instr :=
  match decodeBytes (bytesOfWord (BitVec.ofNat 16 (w % 2 ^ nbits))) with
  | .ok (i, _) => some i
  | .error _ => none

/-! ## Encoding -/

/-- Format `XKK`: the nibbles `op x` and the byte `kk` (R91). -/
def formXkk (op : Nibble) (x : Reg) (kk : Byte) : Word :=
  BitVec.ofNat 16 (0x1000 * op.toNat + 0x100 * x.val + kk.toNat)

/-- Formats `XY` and `XYN`: the nibbles `op x y n`, the last being the sub-opcode in `XY` (R91). -/
def formXyn (op : Nibble) (x y : Reg) (n : Nibble) : Word :=
  BitVec.ofNat 16 (0x1000 * op.toNat + 0x100 * x.val + 0x10 * y.val + n.toNat)

/-- Format `NNN`: the nibble `op` and the 12 bits `nnn` (R91). -/
def formNnn (op : Nibble) (nnn : Addr12) : Word := BitVec.ofNat 16 (0x1000 * op.toNat + nnn.toNat)

/-- The word of an instruction, from the patterns of R94. -/
def encode : Instr → Word
  | .cls => formNnn 0x0 0x0E0
  | .ret => formNnn 0x0 0x0EE
  | .jp nnn => formNnn 0x1 nnn
  | .call nnn => formNnn 0x2 nnn
  | .seImm x kk => formXkk 0x3 x kk
  | .sneImm x kk => formXkk 0x4 x kk
  | .seReg x y low => formXyn 0x5 x y low
  | .ldImm x kk => formXkk 0x6 x kk
  | .addImm x kk => formXkk 0x7 x kk
  | .mov x y => formXyn 0x8 x y 0x0
  | .or x y => formXyn 0x8 x y 0x1
  | .and x y => formXyn 0x8 x y 0x2
  | .xor x y => formXyn 0x8 x y 0x3
  | .add x y => formXyn 0x8 x y 0x4
  | .sub x y => formXyn 0x8 x y 0x5
  | .shr x y => formXyn 0x8 x y 0x6
  | .subn x y => formXyn 0x8 x y 0x7
  | .shl x y => formXyn 0x8 x y 0xE
  | .sneReg x y low => formXyn 0x9 x y low
  | .ldI nnn => formNnn 0xA nnn
  | .jpV0 nnn => formNnn 0xB nnn
  | .rnd x kk => formXkk 0xC x kk
  | .drw x y n => formXyn 0xD x y n
  | .skp x => formXkk 0xE x 0x9E
  | .sknp x => formXkk 0xE x 0xA1
  | .ldVxDt x => formXkk 0xF x 0x07
  | .ldVxK x => formXkk 0xF x 0x0A
  | .ldDtVx x => formXkk 0xF x 0x15
  | .ldStVx x => formXkk 0xF x 0x18
  | .addI x => formXkk 0xF x 0x1E
  | .ldF x => formXkk 0xF x 0x29
  | .ldB x => formXkk 0xF x 0x33
  | .stRegs x => formXkk 0xF x 0x55
  | .ldRegs x => formXkk 0xF x 0x65

/-! ## The opcode map -/

/-- A row of R94: an instruction is selected when `w &&& mask = value`. -/
structure OpcodeRow where
  mnemonic : String
  mask : Word
  value : Word
  deriving DecidableEq, Repr

/-- The word is one of the row's. -/
def OpcodeRow.selects (row : OpcodeRow) (w : Word) : Bool := w &&& row.mask == row.value

/-- The rows of R94 with a mask of the top nibble alone. -/
def opcodeMapPlain : List OpcodeRow :=
  [⟨"JP", 0xF000, 0x1000⟩, ⟨"CALL", 0xF000, 0x2000⟩, ⟨"SE_IMM", 0xF000, 0x3000⟩,
   ⟨"SNE_IMM", 0xF000, 0x4000⟩, ⟨"SE_REG", 0xF000, 0x5000⟩, ⟨"LD_IMM", 0xF000, 0x6000⟩,
   ⟨"ADD_IMM", 0xF000, 0x7000⟩, ⟨"SNE_REG", 0xF000, 0x9000⟩, ⟨"LD_I", 0xF000, 0xA000⟩,
   ⟨"JP_V0", 0xF000, 0xB000⟩, ⟨"RND", 0xF000, 0xC000⟩, ⟨"DRW", 0xF000, 0xD000⟩]

/-- The rows of R94 in the families 0 and 8. -/
def opcodeMap08 : List OpcodeRow :=
  [⟨"CLS", 0xFFFF, 0x00E0⟩, ⟨"RET", 0xFFFF, 0x00EE⟩, ⟨"MOV", 0xF00F, 0x8000⟩,
   ⟨"OR", 0xF00F, 0x8001⟩, ⟨"AND", 0xF00F, 0x8002⟩, ⟨"XOR", 0xF00F, 0x8003⟩,
   ⟨"ADD", 0xF00F, 0x8004⟩, ⟨"SUB", 0xF00F, 0x8005⟩, ⟨"SHR", 0xF00F, 0x8006⟩,
   ⟨"SUBN", 0xF00F, 0x8007⟩, ⟨"SHL", 0xF00F, 0x800E⟩]

/-- The rows of R94 in the families E and F. -/
def opcodeMapEF : List OpcodeRow :=
  [⟨"SKP", 0xF0FF, 0xE09E⟩, ⟨"SKNP", 0xF0FF, 0xE0A1⟩, ⟨"LD_VX_DT", 0xF0FF, 0xF007⟩,
   ⟨"LD_VX_K", 0xF0FF, 0xF00A⟩, ⟨"LD_DT_VX", 0xF0FF, 0xF015⟩, ⟨"LD_ST_VX", 0xF0FF, 0xF018⟩,
   ⟨"ADD_I", 0xF0FF, 0xF01E⟩, ⟨"LD_F", 0xF0FF, 0xF029⟩, ⟨"LD_B", 0xF0FF, 0xF033⟩,
   ⟨"ST_REGS", 0xF0FF, 0xF055⟩, ⟨"LD_REGS", 0xF0FF, 0xF065⟩]

/-- The opcode map of R94, all 34 rows. -/
def opcodeMap : List OpcodeRow := opcodeMapPlain ++ opcodeMap08 ++ opcodeMapEF

end Sys2Proof
end

