-- ==== Sys2Proof/Machine/State.lean ====
section
/-! DEFINITION. The state of the machine as plain data: the architectural state of 10_state.md R20, and, in one
field of its own, what the model keeps of the tick port (the inputs to come, the last outputs).
Reset is 10_state.md R35. -/

namespace Sys2Proof.Machine

/-- Memory as the list of those bytes that differ from their content at reset, addresses strictly
rising (`Memory.wf`). -/
abbrev Memory := List Host.Cell

/-- The framebuffer: row `y` (0 to 31) is a 64-bit vector whose bit `x` is the cell in column `x`
(10_state.md R29; log 9). -/
abbrev Framebuffer := Vector (BitVec 64) Config.rows

/-- The fatal causes of 60_exceptions.md R281. -/
inductive Cause where
  | stackOverflow
  | stackUnderflow
  | pcOutOfRange
  | memOutOfRange
  deriving DecidableEq, Repr

/-- `status` (10_state.md R32). -/
inductive Status where
  | running
  | halted (cause : Cause) (info : Word)
  deriving DecidableEq, Repr

/-- What the host delivers with one tick (50_interfaces.md R251). -/
structure TickIn where
  /-- The key-down event offered to this tick, if any. -/
  keyDown : Option Key
  /-- The random draw for this tick. -/
  rnd : Byte
  deriving DecidableEq, Repr

/-- The outcome of a tick, exactly one of five (40_step_cycle.md R127). -/
inductive TickOutcome where
  | ok
  | decodeFailure (w : Word)
  | waiting
  | fatal (cause : Cause) (info : Word)
  | halted (cause : Cause) (info : Word)
  deriving DecidableEq, Repr

/-- What a tick returns to the host (50_interfaces.md R252). -/
structure TickOut where
  outcome : TickOutcome
  redraw : Bool
  deriving DecidableEq, Repr

/-- How far the boot order of 70_reset_and_hazards.md R322 has come. -/
inductive Boot where
  /-- Reset, no program loaded, no tick yet. -/
  | fresh
  /-- The program is loaded, no tick yet. -/
  | loaded
  /-- At least one tick since reset. -/
  | ticked
  deriving DecidableEq, Repr

/-- The model's record of the host's side. Not architectural state (10_state.md R34). -/
structure Port where
  /-- The inputs of the coming ticks, the next tick's first (log 1). -/
  inputs : List TickIn
  /-- The number of ticks so far; it indexes the free random byte once `inputs` is empty (log 2). -/
  ticks : Nat
  /-- The outputs of the last tick (log 3). -/
  out : Option TickOut
  /-- Whether `Load` is still legal (log 4). -/
  boot : Boot
  deriving DecidableEq, Repr

/-- The state. The fields before `port` are the architectural state of 10_state.md R20. -/
structure State where
  /-- `V[0..15]` (R21). -/
  v : Vector Byte 16
  /-- `I` (R23). -/
  i : Word
  /-- `pc` (R24). -/
  pc : Word
  /-- `STK[0..15]` (R26). -/
  stk : Vector Word Config.stackDepth
  /-- `SP`, the number of slots in use, 0 to 16 (R26). -/
  sp : Fin 17
  /-- `DT` (R27). -/
  dt : Byte
  /-- `ST` (R27). -/
  st : Byte
  /-- `M` (R28). -/
  mem : Memory
  /-- `FB` (R29). -/
  fb : Framebuffer
  /-- `DF` (R30). -/
  df : Bool
  /-- `K[0..15]` (R31). -/
  keys : Vector Bool 16
  /-- `status` (R32). -/
  status : Status
  /-- The model's own fields, not the spec's. -/
  port : Port
  deriving DecidableEq, Repr

/-- Reasons for a step to stop with a fault: none. Every fatal condition of the spec is a state the
machine enters (`Status.halted`), from which ticks go on and change nothing (40_step_cycle.md R121,
60_exceptions.md R285, R286), and every instruction has an effect, so no step raises one. Safe
(log 10). -/
inductive Fault where
  deriving DecidableEq, Repr

/-- Reasons for a refusal. -/
inductive Refusal where
  /-- Raised by `exec` for an instruction without a meaning. No arm raises it. Safe. -/
  | notModelled (mnemonic : String)
  /-- Raised by the load port for an image of more than 3584 bytes; carries the length
  (50_interfaces.md R259, 60_exceptions.md R281). No step raises it. Safe. -/
  | romTooLarge (length : Nat)
  /-- Raised by the load port after the first tick or for a second load: "this spec gives no meaning
  to a load at any other time" (R259, 93_implementation_defined.md U15). No step raises it. Safe. -/
  | loadNotLegal
  deriving DecidableEq, Repr

/-- What a step, a meaning or a host action answers. -/
abbrev Result := Host.Outcome State Fault Refusal

/-- The model's own fields at reset: no scripted input, no tick, no output, nothing loaded
(DESIGN CHOICE, logs 1 to 4). -/
def Port.reset : Port := { inputs := [], ticks := 0, out := none, boot := .fresh }

/-- The state after reset (10_state.md R35, 70_reset_and_hazards.md R320). Memory lists nothing: every byte
has its reset content. -/
def State.reset : State where
  v := Vector.replicate 16 0x00
  i := 0x0000
  pc := 0x0200
  stk := Vector.replicate Config.stackDepth 0x0000
  sp := 0
  dt := 0x00
  st := 0x00
  mem := []
  fb := Vector.replicate Config.rows 0
  df := false
  keys := Vector.replicate 16 false
  status := .running
  port := Port.reset

end Sys2Proof.Machine
end

