-- ==== Sys2Proof/Machine/Params.lean ====
section
/-! DEFINITION. The named parameters of 00_scope.md R7 that are numbers, at the values the spec decides (log 5), the
font table, and the addresses of the memory map (20_memory.md R61). The parameters that are choices
of behaviour are built into the definitions that follow them. -/

namespace Sys2Proof.Machine

/-- `PC_MIN`: the lowest address an instruction is fetched from (R7, 40_step_cycle.md R122). -/
def pcMin : Nat := 0x200

/-- `PC_MAX`: the highest, both bytes of the instruction inside memory (R7, 40_step_cycle.md R122). -/
def pcMax : Nat := 0xFFE

/-- The highest data address (20_memory.md R60). -/
def memTop : Nat := 0xFFF

/-- Where a program is loaded (R6). -/
def loadBase : Nat := 0x200

/-- The longest program, 4096 - 0x200 bytes (R6). -/
def maxImage : Nat := 3584

/-- `MEM_FILL`: the reset content of every byte outside the font (R7, 20_memory.md R65; log 8). -/
def memFill : Byte := 0x00

/-- The bytes of each font glyph (20_memory.md R61). -/
def glyphBytes : Nat := 5

/-- `FONT`, the glyphs of 0 to 7 (20_memory.md R66; PRESUMED by the spec, log 6). -/
def fontLow : List (List Byte) :=
  [[0xF0, 0x90, 0x90, 0x90, 0xF0], [0x20, 0x60, 0x20, 0x20, 0x70],
   [0xF0, 0x10, 0xF0, 0x80, 0xF0], [0xF0, 0x10, 0xF0, 0x10, 0xF0],
   [0x90, 0x90, 0xF0, 0x10, 0x10], [0xF0, 0x80, 0xF0, 0x10, 0xF0],
   [0xF0, 0x80, 0xF0, 0x90, 0xF0], [0xF0, 0x10, 0x20, 0x40, 0x40]]

/-- `FONT`, the glyphs of 8 to F (20_memory.md R66; PRESUMED by the spec, log 6). -/
def fontHigh : List (List Byte) :=
  [[0xF0, 0x90, 0xF0, 0x90, 0xF0], [0xF0, 0x90, 0xF0, 0x10, 0xF0],
   [0xF0, 0x90, 0xF0, 0x90, 0x90], [0xE0, 0x90, 0xE0, 0x90, 0xE0],
   [0xF0, 0x80, 0x80, 0x80, 0xF0], [0xE0, 0x90, 0x90, 0x90, 0xE0],
   [0xF0, 0x80, 0xF0, 0x80, 0xF0], [0xF0, 0x80, 0xF0, 0x80, 0x80]]

/-- `FONT`: 16 glyphs of 5 bytes. -/
def font : List (List Byte) := fontLow ++ fontHigh

/-- What an unlisted address reads as, its content at reset: glyph `d` at `5 * d`, and `MEM_FILL`
outside the font (20_memory.md R65, R66). -/
def unlisted (a : Nat) : Byte := (font.getD (a / glyphBytes) []).getD (a % glyphBytes) memFill

end Sys2Proof.Machine
end

