-- ==== Sys2Proof/Machine/Ops.lean ====
section
/-! DEFINITION. The named operations over memory, registers, framebuffer and tick port: the primitives of
00_scope.md R10 to R12, the framebuffer operations of 44_display.md R210, the entry into a fatal
condition (60_exceptions.md R285), the key wait (45_input_timers.md R235), the decode failure (R283)
and the end of a tick (40_step_cycle.md R126). -/

namespace Sys2Proof.Machine

/-! ## Memory -/

/-- `MemRead(addr, 1)` (00_scope.md R11): the listed byte, or the reset content. -/
def Memory.read : Memory → Nat → Byte
  | [], a => unlisted a
  | (b, v) :: rest, a => if a = b then v else Memory.read rest a

/-- The cell for `(a, v)` in front of `rest`, left out when it would repeat the reset content. -/
def Memory.cons (a : Nat) (v : Byte) (rest : Memory) : Memory :=
  if v = unlisted a then rest else (a, v) :: rest

/-- `MemWrite(addr, 1, v)` (R11), keeping the canonical form. -/
def Memory.write : Memory → Nat → Byte → Memory
  | [], a, v => Memory.cons a v []
  | (b, w) :: rest, a, v =>
    if a < b then Memory.cons a v ((b, w) :: rest)
    else if a = b then Memory.cons a v rest
    else (b, w) :: Memory.write rest a v

/-- Canonical above an address: every listed address is at least `low`, they rise strictly, they lie
in memory, and no entry repeats its reset content. -/
def Memory.wfFrom : Nat → Memory → Bool
  | _, [] => true
  | low, (a, v) :: rest =>
    decide (low ≤ a) && decide (a ≤ memTop) && (v != unlisted a) && Memory.wfFrom (a + 1) rest

/-- The canonical form of a memory. -/
def Memory.wf (m : Memory) : Bool := Memory.wfFrom 0 m

/-- The `count` bytes at `a`, `a + 1`, ... (20_memory.md R69). -/
def readBlock (m : Memory) (a : Nat) : Nat → List Byte
  | 0 => []
  | count + 1 => m.read a :: readBlock m (a + 1) count

/-- Store the bytes at `a`, `a + 1`, ... in ascending order (20_memory.md R69). -/
def storeBlock (m : Memory) (a : Nat) : List Byte → Memory
  | [] => m
  | b :: rest => storeBlock (m.write a b) (a + 1) rest

/-! ## Registers -/

/-- `V[r]` (00_scope.md R10). -/
def State.reg (s : State) (r : Reg) : Byte := s.v[r]

/-- `V[r] <- b` (R10). -/
def State.setReg (s : State) (r : Reg) (b : Byte) : State := { s with v := s.v.set r b }

/-- Write the bytes to V0, V1, ... in order; registers past them keep their values
(43_index_memory.md R199). -/
def State.loadRegs (s : State) (bytes : List Byte) : State :=
  { s with v := Vector.ofFn fun k : Fin 16 => (bytes[k.val]?).getD s.v[k] }

/-- `I <- a`: every write of `I` is masked to 12 bits (10_state.md R23). -/
def State.setI (s : State) (a : Word) : State := { s with i := a &&& 0x0FFF }

/-- `pc <- a`: never masked (10_state.md R24). -/
def State.setPc (s : State) (a : Word) : State := { s with pc := a }

/-- `DT <- b`. -/
def State.setDt (s : State) (b : Byte) : State := { s with dt := b }

/-- `ST <- b`. -/
def State.setSt (s : State) (b : Byte) : State := { s with st := b }

/-- Memory replaced by `m`. -/
def State.setMem (s : State) (m : Memory) : State := { s with mem := m }

/-- The framebuffer replaced by `fb`. -/
def State.setFb (s : State) (fb : Framebuffer) : State := { s with fb := fb }

/-- `DF <- b`. -/
def State.setDf (s : State) (b : Bool) : State := { s with df := b }

/-- `K[k] <- b`; only the host does this (10_state.md R31). -/
def State.setKey (s : State) (k : Key) (b : Bool) : State := { s with keys := s.keys.set k b }

/-- `status <- x`. -/
def State.setStatus (s : State) (x : Status) : State := { s with status := x }

/-- The model's own fields replaced by `p`. -/
def State.setPort (s : State) (p : Port) : State := { s with port := p }

/-- The outputs of this tick (50_interfaces.md R252). -/
def State.setOut (s : State) (outcome : TickOutcome) (redraw : Bool) : State :=
  s.setPort { s.port with out := some ⟨outcome, redraw⟩ }

/-! ## The call stack (10_state.md R26) -/

/-- `STK[SP] <- a`, then `SP <- SP + 1`, where the stack is not full. -/
def State.push (s : State) (a : Word) (room : s.sp.val < 16) : State :=
  { s with
    stk := s.stk.set s.sp.val a
    sp := ⟨s.sp.val + 1, Nat.succ_lt_succ room⟩ }

/-- `SP <- SP - 1`; the slot keeps its content. -/
def State.pop (s : State) : State :=
  { s with sp := ⟨s.sp.val - 1, Nat.lt_of_le_of_lt (Nat.sub_le _ _) s.sp.isLt⟩ }

/-- `STK[SP - 1]`, the slot that a pop vacates. RET checks first that `SP` is not 0. -/
def State.top (s : State) : Word :=
  s.stk[s.sp.val - 1]'(Nat.lt_of_le_of_lt (Nat.sub_le_sub_right (Nat.le_of_lt_succ s.sp.isLt) 1) (by decide))

/-! ## The framebuffer (44_display.md R210) -/

/-- `FB[x mod 64, y mod 32]`. -/
def pixelAt (fb : Framebuffer) (x y : Nat) : Bool :=
  (fb[y % 32]'(Nat.mod_lt _ (by decide))).getLsbD (x % 64)

/-- `clear()`: all cells 0. -/
def clearFb : Framebuffer := Vector.replicate Config.rows 0

/-- The framebuffer after `xor_pixel(x, y)`: one cell inverted, both coordinates wrapping. -/
def xorPixel (fb : Framebuffer) (x y : Nat) : Framebuffer :=
  fb.set (y % 32)
    (fb[y % 32]'(Nat.mod_lt _ (by decide)) ^^^ BitVec.twoPow 64 (x % 64))
    (Nat.mod_lt _ (by decide))

/-- What `xor_pixel(x, y)` returns: the cell was lit before. -/
def collides (fb : Framebuffer) (x y : Nat) : Bool := pixelAt fb x y

/-! ## The inputs of this tick (50_interfaces.md R251) -/

/-- `in.key_down`: the event scripted for this tick; no event once the script is exhausted
(DESIGN CHOICE, log 1). -/
def State.inKeyDown (s : State) : Option Key :=
  match s.port.inputs with
  | [] => none
  | t :: _ => t.keyDown

/-- `in.rnd`: the byte scripted for this tick, and once the script is exhausted the free value of
this tick (DESIGN CHOICE, log 2). -/
def State.inRnd (s : State) : Byte :=
  match s.port.inputs with
  | [] => Config.freeRnd s.port.ticks
  | t :: _ => t.rnd

/-! ## How an instruction ends -/

/-- The instruction completes: `pc <- target`, outcome `Ok` (40_step_cycle.md R124, R127). -/
def complete (target : Word) (redraw : Bool) (s : State) : Result :=
  .next ((s.setPc target).setOut .ok redraw)

/-- Taking a fatal condition, `raise Fatal(cause, info)` (60_exceptions.md R285): no architectural state
changes except `status`; nothing is saved elsewhere and there is no handler. -/
def raiseFatal (cause : Cause) (info : Word) (s : State) : Result :=
  .next ((s.setStatus (.halted cause info)).setOut (.fatal cause info) false)

/-- The key wait goes on, `wait` (00_scope.md R12): nothing changes, outcome `Waiting`. -/
def waitForKey (s : State) : Result := .next (s.setOut .waiting false)

/-- A decode failure (40_step_cycle.md R123, 60_exceptions.md R283): `pc + 2` and a report that carries
the word. Execution has then already resumed; there is no other return from an exception (R290). -/
def takeDecodeFailure (w : Word) (s : State) : Result :=
  .next ((s.setPc (s.pc + 2)).setOut (.decodeFailure w) false)

/-- A tick on a halted core (40_step_cycle.md R121, 60_exceptions.md R286): the outcome repeats, nothing
changes. -/
def stayHalted (cause : Cause) (info : Word) (s : State) : Result :=
  .next (s.setOut (.halted cause info) false)

/-! ## The end of a tick -/

/-- `if t > 0 then t - 1` (40_step_cycle.md R126). -/
def countDown (t : Byte) : Byte := if t = 0 then 0 else t - 1

/-- The timer phase (R126). -/
def timerPhase (s : State) : State := (s.setDt (countDown s.dt)).setSt (countDown s.st)

/-- The outcomes of a completed step, those the timer phase follows (R126). -/
def completesStep : TickOutcome → Bool
  | .ok => true
  | .decodeFailure _ => true
  | .waiting => false
  | .fatal _ _ => false
  | .halted _ _ => false

/-- This tick's step is complete. -/
def State.stepCompleted (s : State) : Bool :=
  match s.port.out with
  | some o => completesStep o.outcome
  | none => false

/-- The tick's inputs are used up, whatever its instruction was: the core has no event queue
(10_state.md R34, 45_input_timers.md R235 (e)). -/
def Port.consume (p : Port) : Port :=
  { p with inputs := p.inputs.tail, ticks := p.ticks + 1, boot := .ticked }

/-- The end of a tick: the timer phase if the step is complete, and the inputs used up. -/
def endTick (s : State) : State :=
  if s.stepCompleted then (timerPhase s).setPort s.port.consume else s.setPort s.port.consume

end Sys2Proof.Machine
end

