-- ==== Sys2Proof/Machine/Operands.lean ====
section
/-! DEFINITION. The operand forms: immediates and registers meeting wider quantities (30_encoding.md R92), the key
and glyph selected by a register (45_input_timers.md R231, 43_index_memory.md R193), decimal digits
(R197), next-instruction addresses (10_state.md R25), and the one data addressing mode with its
check (43_index_memory.md R190, 20_memory.md R70). -/

namespace Sys2Proof.Machine

/-- `nnn` zero-extended to 16 bits (30_encoding.md R92). -/
def addrOf (nnn : Addr12) : Word := nnn.setWidth 16

/-- A byte zero-extended to 16 bits (R92). -/
def wordOf (b : Byte) : Word := b.setWidth 16

/-- The instruction that follows (10_state.md R25). -/
def State.following (s : State) : Word := s.pc + 2

/-- The target of a conditional skip: `pc + 4` if the condition holds, else `pc + 2` (10_state.md R25). -/
def State.skipTarget (s : State) (condition : Bool) : Word := if condition then s.pc + 4 else s.pc + 2

/-- `nnn + V0` as a 16-bit sum, not masked (41_flow.md R147). -/
def offsetTarget (nnn : Addr12) (v0 : Byte) : Word := addrOf nnn + wordOf v0

/-- The key a register selects, `Vx & 0xF` (45_input_timers.md R231). -/
def keyOf (b : Byte) : Key := ⟨b.toNat % 16, Nat.mod_lt _ (by decide)⟩

/-- A key code as a register value (45_input_timers.md R235). -/
def keyCode (k : Key) : Byte := BitVec.ofNat 8 k.val

/-- `5 * (Vx & 0xF)`, the address of a glyph (43_index_memory.md R193). -/
def glyphAddr (b : Byte) : Word := BitVec.ofNat 16 (glyphBytes * (b.toNat % 16))

/-- The hundreds, tens and units digits of a byte, one byte each (43_index_memory.md R197). -/
def decimalDigits (b : Byte) : List Byte :=
  [BitVec.ofNat 8 (b.toNat / 100), BitVec.ofNat 8 (b.toNat / 10 % 10), BitVec.ofNat 8 (b.toNat % 10)]

/-- The address of the first byte of a block, `I` (43_index_memory.md R190). -/
def State.blockBase (s : State) : Nat := s.i.toNat

/-- The address of the last byte of a block of `count` bytes, unmasked (20_memory.md R70). -/
def State.blockLast (s : State) (count : Nat) : Nat := s.i.toNat + count - 1

/-- The check of R70: `count = 0 or I + count - 1 <= 0xFFF`. -/
def State.blockOk (s : State) (count : Nat) : Bool :=
  count == 0 || decide (s.blockLast count ≤ memTop)

/-- Do `body` if the block of `count` bytes at `I` lies in memory; else raise `MemOutOfRange` with the
last address (R70), before anything is changed. -/
def withBlock (count : Nat) (s : State) (body : Result) : Result :=
  if s.blockOk count then body
  else raiseFatal .memOutOfRange (BitVec.ofNat 16 (s.blockLast count)) s

/-- V0 to Vx, the bytes that ST_REGS stores (43_index_memory.md R198). -/
def State.firstRegs (s : State) (x : Reg) : List Byte := s.v.toList.take (x.val + 1)

end Sys2Proof.Machine
end

