-- ==== Sys2Proof/Machine/Flags.lean ====
section
/-! DEFINITION. The values written to VF as a flag (10_state.md R22) and the order of the two writes of the
flag-writing instructions (42_alu.md R161). -/

namespace Sys2Proof.Machine

/-- A flag as a register value, "always exactly 0 or 1" (R22). -/
def flagByte (f : Bool) : Byte := if f then 1 else 0

/-- ADD: `a + b > 255` (42_alu.md R168). -/
def carryOut (a b : Byte) : Bool := decide (a.toNat + b.toNat > 255)

/-- SUB and SUBN: `a >= b`, no borrow (R169, R171). -/
def noBorrow (a b : Byte) : Bool := decide (a.toNat ≥ b.toNat)

/-- SHR: bit 0 before the shift (R170). -/
def bitOutRight (a : Byte) : Bool := a.getLsbD 0

/-- SHL: bit 7 before the shift (R172). -/
def bitOutLeft (a : Byte) : Bool := a.getLsbD 7

/-- `V[x] <- result`, then `V[15] <- flag`: the flag is written last, so it remains when x is F
(R161, `VF_ORDER` = `flag_last`, log 5). -/
def State.setFlagged (s : State) (x : Reg) (result : Byte) (flag : Bool) : State :=
  (s.setReg x result).setReg regF (flagByte flag)

end Sys2Proof.Machine
end

