-- ==== Sys2Proof/Machine/Alu.lean ====
section
/-! DEFINITION. Register loads, arithmetic, logic, shifts and the random draw (42_alu.md). Byte arithmetic is
modulo 256 by the width of the type (R174). -/

namespace Sys2Proof.Machine

/-- LD Vx, kk (R162). -/
def execLdImm (x : Reg) (kk : Byte) (s : State) : Result :=
  complete s.following false (s.setReg x kk)

/-- ADD Vx, kk (R163): no flag. -/
def execAddImm (x : Reg) (kk : Byte) (s : State) : Result :=
  complete s.following false (s.setReg x (s.reg x + kk))

/-- MOV Vx, Vy (R164). -/
def execMov (x y : Reg) (s : State) : Result :=
  complete s.following false (s.setReg x (s.reg y))

/-- OR Vx, Vy (R165): no flag. -/
def execOr (x y : Reg) (s : State) : Result :=
  complete s.following false (s.setReg x (s.reg x ||| s.reg y))

/-- AND Vx, Vy (R166): no flag. -/
def execAnd (x y : Reg) (s : State) : Result :=
  complete s.following false (s.setReg x (s.reg x &&& s.reg y))

/-- XOR Vx, Vy (R167): no flag. -/
def execXor (x y : Reg) (s : State) : Result :=
  complete s.following false (s.setReg x (s.reg x ^^^ s.reg y))

/-- ADD Vx, Vy (R168). -/
def execAdd (x y : Reg) (s : State) : Result :=
  complete s.following false
    (s.setFlagged x (s.reg x + s.reg y) (carryOut (s.reg x) (s.reg y)))

/-- SUB Vx, Vy (R169). -/
def execSub (x y : Reg) (s : State) : Result :=
  complete s.following false
    (s.setFlagged x (s.reg x - s.reg y) (noBorrow (s.reg x) (s.reg y)))

/-- SHR Vx (R170): `y` is ignored. -/
def execShr (x _y : Reg) (s : State) : Result :=
  complete s.following false (s.setFlagged x (s.reg x >>> 1) (bitOutRight (s.reg x)))

/-- SUBN Vx, Vy (R171). -/
def execSubn (x y : Reg) (s : State) : Result :=
  complete s.following false
    (s.setFlagged x (s.reg y - s.reg x) (noBorrow (s.reg y) (s.reg x)))

/-- SHL Vx (R172): `y` is ignored. -/
def execShl (x _y : Reg) (s : State) : Result :=
  complete s.following false (s.setFlagged x (s.reg x <<< 1) (bitOutLeft (s.reg x)))

/-- RND Vx, kk (R173). -/
def execRnd (x : Reg) (kk : Byte) (s : State) : Result :=
  complete s.following false (s.setReg x (s.inRnd &&& kk))

end Sys2Proof.Machine
end

