-- ==== Sys2Proof/Machine/Display.lean ====
section
/-! DEFINITION. The display instructions (44_display.md). -/

namespace Sys2Proof.Machine

/-- The framebuffer during a draw, and whether a lit cell has been hit so far (R212). -/
structure Canvas where
  fb : Framebuffer
  hit : Bool
  deriving DecidableEq, Repr

/-- `if xor_pixel(x, y) then hit <- true` (R212). -/
def plotPixel (x y : Nat) (c : Canvas) : Canvas :=
  { fb := xorPixel c.fb x y, hit := c.hit || collides c.fb x y }

/-- One column of a row: plotted if the sprite bit is 1. Bit 7 is column 0, the leftmost (R213;
PRESUMED by the spec, log 9). -/
def plotColumn (b : Byte) (x0 y : Nat) (c : Canvas) (col : Nat) : Canvas :=
  if b.getLsbD (7 - col) then plotPixel (x0 + col) y c else c

/-- One row of a sprite, columns 0 to 7 (R212). -/
def plotRow (b : Byte) (x0 y : Nat) (c : Canvas) : Canvas :=
  (List.range 8).foldl (plotColumn b x0 y) c

/-- The rows of a sprite from row `y` downward (R212). -/
def plotRows (x0 : Nat) : Nat → List Byte → Canvas → Canvas
  | _, [], c => c
  | y, b :: rest, c => plotRows x0 (y + 1) rest (plotRow b x0 y c)

/-- The draw of DRW: the `n` bytes at `I` as rows at `(Vx, Vy)`. -/
def State.drawn (s : State) (x y : Reg) (n : Nibble) : Canvas :=
  plotRows (s.reg x).toNat (s.reg y).toNat (readBlock s.mem s.blockBase n.toNat) ⟨s.fb, false⟩

/-- CLS (R211). -/
def execCls (s : State) : Result :=
  complete s.following true ((s.setFb clearFb).setDf true)

/-- DRW Vx, Vy, n (R212): VF is the collision flag; both coordinates are read before it is written. -/
def execDrw (x y : Reg) (n : Nibble) (s : State) : Result :=
  withBlock n.toNat s
    (complete s.following true
      (((s.setFb (s.drawn x y n).fb).setReg regF (flagByte (s.drawn x y n).hit)).setDf true))

end Sys2Proof.Machine
end

