-- ==== Sys2Proof/Machine/Flow.lean ====
section
/-! DEFINITION. Control transfer and conditional skips (41_flow.md). -/

namespace Sys2Proof.Machine

/-- RET (R141): the value popped is the return address itself. -/
def execRet (s : State) : Result :=
  if s.sp.val = 0 then raiseFatal .stackUnderflow s.pc s
  else complete s.top false s.pop

/-- JP nnn (R142). -/
def execJp (nnn : Addr12) (s : State) : Result := complete (addrOf nnn) false s

/-- CALL nnn (R143): `pc + 2` is pushed, the target is not checked here. -/
def execCall (nnn : Addr12) (s : State) : Result :=
  if room : s.sp.val < 16 then complete (addrOf nnn) false (s.push s.following room)
  else raiseFatal .stackOverflow s.pc s

/-- SE Vx, kk (R144). -/
def execSeImm (x : Reg) (kk : Byte) (s : State) : Result :=
  complete (s.skipTarget (s.reg x == kk)) false s

/-- SNE Vx, kk (R145). -/
def execSneImm (x : Reg) (kk : Byte) (s : State) : Result :=
  complete (s.skipTarget (s.reg x != kk)) false s

/-- SE Vx, Vy (R146); the low nibble of the word is ignored (30_encoding.md R98). -/
def execSeReg (x y : Reg) (_low : Nibble) (s : State) : Result :=
  complete (s.skipTarget (s.reg x == s.reg y)) false s

/-- JP V0, nnn (R147). -/
def execJpV0 (nnn : Addr12) (s : State) : Result :=
  complete (offsetTarget nnn (s.reg 0)) false s

/-- SNE Vx, Vy (R148); the low nibble of the word is ignored (30_encoding.md R98). -/
def execSneReg (x y : Reg) (_low : Nibble) (s : State) : Result :=
  complete (s.skipTarget (s.reg x != s.reg y)) false s

end Sys2Proof.Machine
end

