-- ==== Sys2Proof/Machine/IndexMemory.lean ====
section
/-! DEFINITION. The address register and the memory instructions (43_index_memory.md). `I` is never changed by an
instruction that accesses memory (R190). -/

namespace Sys2Proof.Machine

/-- LD I, nnn (R191). -/
def execLdI (nnn : Addr12) (s : State) : Result :=
  complete s.following false (s.setI (addrOf nnn))

/-- ADD I, Vx (R192): modulo 4096, no flag. -/
def execAddI (x : Reg) (s : State) : Result :=
  complete s.following false (s.setI (s.i + wordOf (s.reg x)))

/-- LD F, Vx (R193). -/
def execLdF (x : Reg) (s : State) : Result :=
  complete s.following false (s.setI (glyphAddr (s.reg x)))

/-- LD B, Vx (R197). -/
def execLdB (x : Reg) (s : State) : Result :=
  withBlock 3 s
    (complete s.following false
      (s.setMem (storeBlock s.mem s.blockBase (decimalDigits (s.reg x)))))

/-- LD [I], Vx (R198). -/
def execStRegs (x : Reg) (s : State) : Result :=
  withBlock (x.val + 1) s
    (complete s.following false (s.setMem (storeBlock s.mem s.blockBase (s.firstRegs x))))

/-- LD Vx, [I] (R199). -/
def execLdRegs (x : Reg) (s : State) : Result :=
  withBlock (x.val + 1) s
    (complete s.following false (s.loadRegs (readBlock s.mem s.blockBase (x.val + 1))))

end Sys2Proof.Machine
end

