-- ==== Sys2Proof/Machine/InputTimers.lean ====
section
/-! DEFINITION. Key input and timer instructions (45_input_timers.md). -/

namespace Sys2Proof.Machine

/-- SKP Vx (R231). -/
def execSkp (x : Reg) (s : State) : Result :=
  complete (s.skipTarget s.keys[keyOf (s.reg x)]) false s

/-- SKNP Vx (R232). -/
def execSknp (x : Reg) (s : State) : Result :=
  complete (s.skipTarget (!s.keys[keyOf (s.reg x)])) false s

/-- LD Vx, K (R235): waits until the tick offers a key-down event; the latch is not read. -/
def execLdVxK (x : Reg) (s : State) : Result :=
  match s.inKeyDown with
  | none => waitForKey s
  | some k => complete s.following false (s.setReg x (keyCode k))

/-- LD Vx, DT (R237): the value before this step's timer phase. -/
def execLdVxDt (x : Reg) (s : State) : Result :=
  complete s.following false (s.setReg x s.dt)

/-- LD DT, Vx (R238): the timer phase of the same step follows. -/
def execLdDtVx (x : Reg) (s : State) : Result :=
  complete s.following false (s.setDt (s.reg x))

/-- LD ST, Vx (R239): the timer phase of the same step follows. -/
def execLdStVx (x : Reg) (s : State) : Result :=
  complete s.following false (s.setSt (s.reg x))

end Sys2Proof.Machine
end

