-- ==== Sys2Proof/Machine/Cycle.lean ====
section
/-! DEFINITION. One tick (40_step_cycle.md R120): the checks in the order of 60_exceptions.md R287, fetch, decode,
execute, and the end of the tick. -/

namespace Sys2Proof.Machine

/-- The range check of fetch (R122); no parity check (20_memory.md R68, log 5). -/
def pcInRange (pc : Word) : Bool := decide (pcMin ≤ pc.toNat) && decide (pc.toNat ≤ pcMax)

/-- `MemRead(pc, 2)`: the high byte at `pc`, the low byte at `pc + 1` (R122, 20_memory.md R67). -/
def State.fetchWord (s : State) : Word :=
  wordOfBytes (s.mem.read s.pc.toNat) (s.mem.read (s.pc.toNat + 1))

/-- Fetch, decode and execute (R120, 2 to 6), before the end of the tick. -/
def fetchDecodeExecute (s : State) : Result :=
  if pcInRange s.pc then
    match decode s.fetchWord with
    | .error _ => takeDecodeFailure s.fetchWord s
    | .ok i => exec i s
  else raiseFatal .pcOutOfRange s.pc s

/-- The halted check first (R120, 1; R121). -/
def tickBody (s : State) : Result :=
  match s.status with
  | .halted cause info => stayHalted cause info s
  | .running => fetchDecodeExecute s

/-- The end of the tick, where the body of the tick gave a state. -/
def finishTick : Result → Result
  | .next t => .next (endTick t)
  | .fault f => .fault f
  | .refused r => .refused r

/-- One tick. -/
def tick (s : State) : Result := finishTick (tickBody s)

/-- The instruction word `w` stored at `pc`, high byte first, where the next tick fetches it. -/
def State.placeWord (s : State) (w : Word) : State :=
  s.setMem (storeBlock s.mem s.pc.toNat (bytesOfWord w))

end Sys2Proof.Machine
end

