-- ==== Sys2Proof/Machine/Step.lean ====
section
/-! DEFINITION. The step (40_step_cycle.md R120), and where an instruction is placed so that the next step
runs it (log 11). -/

namespace Sys2Proof.Machine

/-- One step: one tick of the host. -/
def step (s : State) : Host.Outcome State Fault Refusal := tick s

/-- The state with an instruction stored where the next step fetches: at `pc`. -/
def State.withFetchWord (s : State) (nbits w : Nat) : State :=
  s.placeWord (BitVec.ofNat 16 (w % 2 ^ nbits))

end Sys2Proof.Machine
end

