-- ==== Sys2Proof/Machine/Ports.lean ====
section
/-! DEFINITION. The six ports between the core and its host (50_interfaces.md): what the host can do between
steps, and what it can read. -/

namespace Sys2Proof.Machine

/-! ## Tick port (R251, R252) -/

/-- The state with the inputs of the next tick put in front of the script. -/
def State.offer (s : State) (t : TickIn) : State :=
  s.setPort { s.port with inputs := t :: s.port.inputs }

/-- One tick with the inputs the host delivers (R251): `step(state, in)` of 40_step_cycle.md R120. -/
def tickWith (t : TickIn) (s : State) : Result := step (s.offer t)

/-! ## Key port (R253) -/

/-- `KeyDown(k)`: `K[k] <- true`. -/
def hostKeyDown (k : Key) (s : State) : State := s.setKey k true

/-- `KeyUp(k)`: `K[k] <- false`. -/
def hostKeyUp (k : Key) (s : State) : State := s.setKey k false

/-! ## Render and sound ports (R255, R256, R258) -/

/-- The snapshot: 2048 cells in row-major order, cell index `64 * y + x` (R255, 10_state.md R29). -/
def State.snapshot (s : State) : List Bool :=
  (List.range 2048).map fun cell => pixelAt s.fb (cell % 64) (cell / 64)

/-- The dirty flag as the host reads it (R255). -/
def State.needsRedraw (s : State) : Bool := s.df

/-- `RenderAck`: `DF <- 0` (R256). -/
def hostRenderAck (s : State) : State := s.setDf false

/-- The sound timer as the host reads it (R258). -/
def State.soundValue (s : State) : Byte := s.st

/-! ## Load port (R259) -/

/-- The bytes at 0x200 and upward, `pc = 0x200`. -/
def loadImage (bytes : List Byte) (s : State) : State :=
  ((s.setMem (storeBlock s.mem loadBase bytes)).setPc (BitVec.ofNat 16 loadBase)).setPort
    { s.port with boot := .loaded }

/-- `Load(bytes)`: refused with its length if it is too long, with nothing changed; refused if it is
not the first load after reset or a tick has been made (R259; log 4). -/
def hostLoad (bytes : List Byte) (s : State) : Result :=
  match s.port.boot with
  | .fresh =>
    if bytes.length ≤ maxImage then .next (loadImage bytes s)
    else .refused (.romTooLarge bytes.length)
  | .loaded => .refused .loadNotLegal
  | .ticked => .refused .loadNotLegal

/-! ## Reset port (R260) -/

/-- `Reset`: every piece of architectural state to its reset value, from any state; the only way out of
`Halted` (60_exceptions.md R286, R290). The host's script of inputs and the count of ticks go on:
a reset of the core does not rewind the host (DESIGN CHOICE, log 12). -/
def hostReset (s : State) : State :=
  State.reset.setPort { Port.reset with inputs := s.port.inputs, ticks := s.port.ticks }

/-! ## All the host can do (R250, R261) -/

/-- One action of the host. Reads change nothing and are the functions above. -/
inductive HostAction where
  | tick (input : TickIn)
  | keyDown (k : Key)
  | keyUp (k : Key)
  | renderAck
  | load (bytes : List Byte)
  | reset
  deriving DecidableEq, Repr

/-- What an action does. -/
def hostAct : HostAction → State → Result
  | .tick input, s => tickWith input s
  | .keyDown k, s => .next (hostKeyDown k s)
  | .keyUp k, s => .next (hostKeyUp k s)
  | .renderAck, s => .next (hostRenderAck s)
  | .load bytes, s => hostLoad bytes s
  | .reset, s => .next (hostReset s)

/-- A session of the host: its actions in order, stopping at a refusal. -/
def hostRun : List HostAction → State → Result
  | [], s => .next s
  | a :: rest, s =>
    match hostAct a s with
    | .next t => hostRun rest t
    | .fault f => .fault f
    | .refused r => .refused r

/-! ## Numeric cause codes (60_exceptions.md R281) -/

/-- The code of a fatal cause. -/
def Cause.code : Cause → Nat
  | .stackOverflow => 2
  | .stackUnderflow => 3
  | .pcOutOfRange => 4
  | .memOutOfRange => 6

/-- The code of a tick's outcome, where R281 gives one. -/
def TickOutcome.code : TickOutcome → Option Nat
  | .ok => none
  | .decodeFailure _ => some 1
  | .waiting => none
  | .fatal cause _ => some cause.code
  | .halted cause _ => some cause.code

/-- The code of a load refusal, where R281 gives one. -/
def Refusal.code : Refusal → Option Nat
  | .romTooLarge _ => some 5
  | _ => none

end Sys2Proof.Machine
end

