-- ==== Sys2Proof/Safety.lean ====
section
/-! DEFINITION. The terms in which claims are made: what an instruction leaves untouched, what it reports,
what halting means, the invariant of 10_state.md R36, and safe runs. -/

namespace Sys2Proof.Machine

/-! ## Frames (40_step_cycle.md R125) -/

/-- A part of the architectural state that an instruction may be said to write. `pc` is not among them:
every instruction sets it (10_state.md R25). -/
inductive Part where
  | reg (r : Reg)
  | i
  | slot (j : Fin 16)
  | sp
  | dt
  | st
  /-- The `count` bytes of memory at `base`. -/
  | bytes (base count : Nat)
  | fb
  | df
  | keys
  | status
  deriving DecidableEq, Repr

/-- Everything but `pc`, the listed parts and the model's own fields is in `t` what it is in `s`.
Memory is compared through the read of one byte. -/
structure Untouched (written : List Part) (s t : State) : Prop where
  reg : ∀ r, Part.reg r ∉ written → t.reg r = s.reg r
  i : Part.i ∉ written → t.i = s.i
  slot : ∀ j : Fin 16, Part.slot j ∉ written → t.stk[j] = s.stk[j]
  sp : Part.sp ∉ written → t.sp = s.sp
  dt : Part.dt ∉ written → t.dt = s.dt
  st : Part.st ∉ written → t.st = s.st
  mem : ∀ a, (∀ base count, Part.bytes base count ∈ written → a < base ∨ base + count ≤ a) →
    t.mem.read a = s.mem.read a
  fb : Part.fb ∉ written → t.fb = s.fb
  df : Part.df ∉ written → t.df = s.df
  keys : Part.keys ∉ written → t.keys = s.keys
  status : Part.status ∉ written → t.status = s.status

/-- The outputs of the tick are these, and the rest of the model's own fields is as before. -/
def Reports (outcome : TickOutcome) (redraw : Bool) (s t : State) : Prop :=
  t.port = { s.port with out := some ⟨outcome, redraw⟩ }

/-- `t` is `s` after `raise Fatal(cause, info)`: only `status` differs, `pc` included (60_exceptions.md R285). -/
structure Halts (cause : Cause) (info : Word) (s t : State) : Prop where
  status : t.status = .halted cause info
  pc : t.pc = s.pc
  rest : Untouched [.status] s t
  report : Reports (.fatal cause info) false s t

/-! ## What a step is about to do -/

/-- The machine is running, `pc` is where an instruction can be fetched, and the two bytes there, the
high one first, decode to `i`. -/
structure Fetches (s : State) (i : Instr) : Prop where
  running : s.status = .running
  low : 0x200 ≤ s.pc.toNat
  high : s.pc.toNat ≤ 0xFFE
  decodes : decode (s.mem.read s.pc.toNat ++ s.mem.read (s.pc.toNat + 1)) = .ok i

/-- The inputs of a tick are used up: the model's own fields after a tick. -/
def Consumed (p q : Port) : Prop :=
  q.inputs = p.inputs.tail ∧ q.ticks = p.ticks + 1 ∧ q.boot = .ticked

/-! ## The invariant (10_state.md R36) -/

/-- Every slot in use holds a return address in 0x202 to 0x1000. -/
def StackOk (s : State) : Prop :=
  ∀ j : Fin 16, j.val < s.sp.val → 0x202 ≤ s.stk[j].toNat ∧ s.stk[j].toNat ≤ 0x1000

/-- The record of a halt is true of the state it left: the cause's condition holds, and `info` is what
60_exceptions.md R281 says is recorded. -/
def HaltOk (s : State) : Prop :=
  match s.status with
  | .running => True
  | .halted .stackOverflow info => info = s.pc ∧ s.sp.val = 16
  | .halted .stackUnderflow info => info = s.pc ∧ s.sp.val = 0
  | .halted .pcOutOfRange info => info = s.pc ∧ (s.pc.toNat < 0x200 ∨ 0xFFE < s.pc.toNat)
  | .halted .memOutOfRange info => 0x1000 ≤ info.toNat ∧ info.toNat ≤ s.i.toNat + 15

/-- Before the first tick the machine is running at 0x200. -/
def BootOk (s : State) : Prop :=
  s.port.boot ≠ .ticked → s.status = .running ∧ s.pc.toNat = 0x200

/-- What holds in every state reachable from reset by ticks and legal host actions. The bounds of R36 on
`V`, `SP`, `DT`, `ST` and the framebuffer cells are in the types. -/
structure Inv (s : State) : Prop where
  i : s.i.toNat ≤ 0xFFF
  stack : StackOk s
  mem : s.mem.wf = true
  halt : HaltOk s
  boot : BootOk s

/-! ## Safe runs -/

/-- The core is not halted. "A model should treat `Halted` as a fault state that is never a successful
end of a run" (60_exceptions.md R286). -/
def State.live (s : State) : Prop := s.status = .running

/-- A host's session from `s` ends with the core running. -/
def SafeRun (actions : List HostAction) (s : State) : Prop :=
  ∃ t, hostRun actions s = .next t ∧ t.live

/-! ## Words -/

/-- The instruction word with this number, so that a pattern such as `3xkk` is written
`word (0x3000 + 0x100 * x + kk)` (30_encoding.md R91, R94). -/
abbrev word (n : Nat) : Word := BitVec.ofNat 16 n

/-! ## Sprites (44_display.md R212, R213) -/

/-- The sprite of `n` bytes at `I`, placed at `(x0, y0)`, has a 1 bit for the cell `(px, py)`: in row `r`
(0 to n - 1) and column `c` (0 to 7), bit 7 being column 0. -/
def SpriteCovers (s : State) (x0 y0 n px py : Nat) : Prop :=
  ∃ r c, r < n ∧ c < 8 ∧ (x0 + c) % 64 = px ∧ (y0 + r) % 32 = py ∧
    (s.mem.read (s.i.toNat + r)).getLsbD (7 - c) = true

/-! ## What steers the machine -/

/-- Two states agree on all that a program can be steered by: everything but the sound timer, the dirty
flag, the stale slots of the stack (10_state.md R26), the last outputs and the boot phase. -/
structure SteersAlike (s t : State) : Prop where
  v : s.v = t.v
  i : s.i = t.i
  pc : s.pc = t.pc
  slots : ∀ j : Fin 16, j.val < s.sp.val → s.stk[j] = t.stk[j]
  sp : s.sp = t.sp
  dt : s.dt = t.dt
  mem : s.mem = t.mem
  fb : s.fb = t.fb
  keys : s.keys = t.keys
  status : s.status = t.status
  inputs : s.port.inputs = t.port.inputs
  ticks : s.port.ticks = t.port.ticks

end Sys2Proof.Machine
end

