-- ==== Sys2Proof/Certificates/Slice0/Obligations.lean ====
section
/-! DEFINITION. The statements for the provers. The words in the `decode` clauses are the encodings that the
instruction rules themselves give; that most of these numbers are general knowledge which the spec
adopts is log 7. "D<n>" is a decision of 92_eei_decisions.md, the spec's own choice. A frame
(`Untouched`) says of an instruction's rule that it names all it writes (40_step_cycle.md R125, D12).
Every statement holds for any scripted inputs and any random byte (logs 1, 2). `Reports` and `Consumed`
speak of the model's own fields (logs 1 to 4), not of a rule. -/

open Sys2Proof Sys2Proof.Machine

/-! ## Encoding -/

/-- Sanity: a word of each of the sixteen families (00_scope.md R14: a family is a top nibble), written out
from the patterns of 30_encoding.md R94 and the vectors of 95_test_vectors.md, decodes to the instruction
it stands for; a word of each of the four kinds of decode failure does not (D2 to D4; log 7). -/
def Obligations.WordsOfEveryFamilyDecode : Prop :=
  decode 0x00E0 = .ok .cls ∧ decode 0x00EE = .ok .ret ∧ decode 0x1ABC = .ok (.jp 0xABC) ∧
  decode 0x2ABD = .ok (.call 0xABD) ∧ decode 0x3342 = .ok (.seImm 3 0x42) ∧
  decode 0x4E43 = .ok (.sneImm 14 0x43) ∧ decode 0x5FF9 = .ok (.seReg 15 15 9) ∧
  decode 0x61AB = .ok (.ldImm 1 0xAB) ∧ decode 0x7AFF = .ok (.addImm 10 0xFF) ∧
  decode 0x812E = .ok (.shl 1 2) ∧ decode 0x8125 = .ok (.sub 1 2) ∧
  decode 0x935F = .ok (.sneReg 3 5 15) ∧ decode 0xA123 = .ok (.ldI 0x123) ∧
  decode 0xB210 = .ok (.jpV0 0x210) ∧ decode 0xC30F = .ok (.rnd 3 0x0F) ∧
  decode 0xD015 = .ok (.drw 0 1 5) ∧ decode 0xE29E = .ok (.skp 2) ∧
  decode 0xFF65 = .ok (.ldRegs 15) ∧ decode 0x0000 = .error (.unknownFamily0 0x0000) ∧
  decode 0x8129 = .error (.unknownFamily8 0x8129) ∧ decode 0xE09D = .error (.unknownFamilyE 0xE09D) ∧
  decode 0xF11F = .error (.unknownFamilyF 0xF11F)

/-- Every instruction, its ignored fields included, is decoded from its own word (30_encoding.md R91 to
R94; that the ignored fields are kept in the syntax is this model's choice, log 13). -/
def Obligations.DecodeInvertsEncode : Prop :=
  ∀ i : Instr, decode (encode i) = .ok i

/-- Every word that decodes is the encoding of what it decodes to: decoding drops no bit
(30_encoding.md R91 to R94; log 13). -/
def Obligations.EncodeInvertsDecode : Prop :=
  ∀ (w : Word) (i : Instr), decode w = .ok i → encode i = w

/-- The decode algorithm (30_encoding.md R93) and the opcode map (R94) are the same function: a word that
decodes is selected by the row of its instruction and by no other, and a word that does not decode
is selected by none (D2 to D4; log 7). -/
def Obligations.DecodeAgreesWithOpcodeMap : Prop :=
  ∀ w : Word,
    (∀ i, decode w = .ok i →
      (opcodeMap.filter (OpcodeRow.selects · w)).map OpcodeRow.mnemonic = [i.mnemonic]) ∧
    (∀ e, decode w = .error e → opcodeMap.filter (OpcodeRow.selects · w) = [])

/-- The words that are decode failures are exactly the four sets of 30_encoding.md R97
(which rest on R93, D2 to D4). -/
def Obligations.DecodeFailsExactlyOnTheListedWords : Prop :=
  ∀ w : Word,
    (∃ e, decode w = .error e) ↔
      (w.toNat / 0x1000 = 0x0 ∧ w.toNat % 0x1000 ≠ 0x0E0 ∧ w.toNat % 0x1000 ≠ 0x0EE) ∨
      (w.toNat / 0x1000 = 0x8 ∧ w.toNat % 0x10 ∈ [0x8, 0x9, 0xA, 0xB, 0xC, 0xD, 0xF]) ∨
      (w.toNat / 0x1000 = 0xE ∧ w.toNat % 0x100 ∉ [0x9E, 0xA1]) ∨
      (w.toNat / 0x1000 = 0xF ∧
        w.toNat % 0x100 ∉ [0x07, 0x0A, 0x15, 0x18, 0x1E, 0x29, 0x33, 0x55, 0x65])

/-! ## The step -/

/-- Where the two bytes at `pc` decode to `i`, a step is `exec i` and then the end of the tick
(40_step_cycle.md R120, R122, R124; the bounds of a fetch are D5). -/
def Obligations.StepRunsDecodedInstruction : Prop :=
  ∀ (s u : State) (i : Instr), Fetches s i → exec i s = .next u → step s = .next (endTick u)

/-- After the execute phase: each non-zero timer counts down by one if the outcome is `Ok`, and only
then; nothing else of the architectural state changes, and the tick's inputs are used up
(40_step_cycle.md R126, an inference the spec marks as its own, R127, R128; the freezing of the timers
on a waiting tick is the spec's decision D13, 45_input_timers.md R236). -/
def Obligations.TimersCountDownAfterCompletedSteps : Prop :=
  ∀ (s u : State) (i : Instr) (o : TickOut),
    Fetches s i → exec i s = .next u → u.port.out = some o →
    ∃ t, step s = .next t ∧
      (o.outcome = .ok →
        t.dt.toNat = u.dt.toNat - 1 ∧ t.st.toNat = u.st.toNat - 1) ∧
      (o.outcome ≠ .ok → t.dt = u.dt ∧ t.st = u.st) ∧
      Untouched [.dt, .st] u t ∧ t.pc = u.pc ∧ t.port.out = some o ∧ Consumed u.port t.port

/-- A decode failure (40_step_cycle.md R123): reported with the word, `pc + 2`, the timer phase (R126,
an inference the spec marks as its own), nothing else. The bounds of a fetch are D5; that the inputs of
the tick are used up, counted and followed by the boot phase `ticked` is this model's choice (logs 1,
2, 4). -/
def Obligations.DecodeFailureIsSkippedAndReported : Prop :=
  ∀ (s : State) (e : DecodeError) (w : Word),
    s.status = .running → 0x200 ≤ s.pc.toNat → s.pc.toNat ≤ 0xFFE →
    w = s.mem.read s.pc.toNat ++ s.mem.read (s.pc.toNat + 1) → decode w = .error e →
    ∃ t, step s = .next t ∧ t.pc = s.pc + 2 ∧
      t.dt.toNat = s.dt.toNat - 1 ∧ t.st.toNat = s.st.toNat - 1 ∧
      Untouched [.dt, .st] s t ∧ t.port.out = some ⟨.decodeFailure w, false⟩ ∧
      Consumed s.port t.port

/-- A running core whose `pc` is below 0x200 or above 0xFFE halts with `PcOutOfRange` and that `pc`, with
no timer phase (40_step_cycle.md R122, R128; the bounds are the spec's decision D5). -/
def Obligations.PcOutOfRangeHalts : Prop :=
  ∀ s : State, s.status = .running → (s.pc.toNat < 0x200 ∨ 0xFFE < s.pc.toNat) →
    ∃ t, step s = .next t ∧ t.status = .halted .pcOutOfRange s.pc ∧ t.pc = s.pc ∧
      Untouched [.status] s t ∧ t.port.out = some ⟨.fatal .pcOutOfRange s.pc, false⟩ ∧
      Consumed s.port t.port

/-- A tick on a halted core changes nothing and repeats the halt (40_step_cycle.md R121, 60_exceptions.md
R286; the spec's decision D8). -/
def Obligations.HaltedTickChangesNothing : Prop :=
  ∀ (s : State) (cause : Cause) (info : Word), s.status = .halted cause info →
    ∃ t, step s = .next t ∧ Untouched [] s t ∧ t.pc = s.pc ∧
      t.port.out = some ⟨.halted cause info, false⟩ ∧ Consumed s.port t.port

/-- Every tick of every state answers a next state, uses up one tick's inputs and reports one outcome
(40_step_cycle.md R120, R127, D17): the machine itself never stops; that a halt is a next state is
this model's reading (log 10). -/
def Obligations.EveryTickAnswersAndReports : Prop :=
  ∀ s : State, ∃ t o, step s = .next t ∧ t.port.out = some o ∧ Consumed s.port t.port ∧
    (o.redraw = true → o.outcome = .ok)

/-- A tick reports a redraw exactly when it executed CLS or DRW to its end (40_step_cycle.md R127,
50_interfaces.md R252; D17, D18). -/
def Obligations.RedrawReportedExactlyForDisplay : Prop :=
  ∀ (s t : State) (o : TickOut), step s = .next t → t.port.out = some o →
    (o.redraw = true ↔
      o.outcome = .ok ∧ ∃ i, Fetches s i ∧ (i = .cls ∨ ∃ x y n, i = .drw x y n))

/-- A tick that halts a running core changes nothing but `status` (60_exceptions.md R285, 40_step_cycle.md
R128; the spec's decision D8). -/
def Obligations.FatalTickChangesOnlyStatus : Prop :=
  ∀ (s t : State) (cause : Cause) (info : Word),
    s.status = .running → step s = .next t → t.status = .halted cause info →
    Untouched [.status] s t ∧ t.pc = s.pc ∧ t.port.out = some ⟨.fatal cause info, false⟩

/-- Which instruction can raise what (60_exceptions.md R282, an inference of the spec, and R281, D9):
a running core is halted by executing an instruction only by CALL on a full stack, RET on an empty
one, or a block of bytes that passes 0xFFF in DRW, LD_B, ST_REGS or LD_REGS, with the recorded value
R281 gives. -/
def Obligations.OnlyListedInstructionsHalt : Prop :=
  ∀ (i : Instr) (s t : State) (cause : Cause) (info : Word),
    s.status = .running → exec i s = .next t → t.status = .halted cause info →
    (∃ nnn, i = .call nnn ∧ cause = .stackOverflow ∧ info = s.pc ∧ s.sp.val = 16) ∨
    (i = .ret ∧ cause = .stackUnderflow ∧ info = s.pc ∧ s.sp.val = 0) ∨
    (∃ count : Nat, ((∃ x y n, i = .drw x y n ∧ count = n.toNat) ∨ (∃ x, i = .ldB x ∧ count = 3) ∨
        (∃ x : Reg, (i = .stRegs x ∨ i = .ldRegs x) ∧ count = x.val + 1)) ∧
      cause = .memOutOfRange ∧ info = BitVec.ofNat 16 (s.i.toNat + count - 1) ∧ 0 < count ∧
      0xFFF < s.i.toNat + count - 1)

/-! ## Invariants -/

/-- The reset state meets the invariant. -/
def Obligations.ResetMeetsTheInvariant : Prop := Inv State.reset

/-- Every step keeps the invariant: `I` stays within 12 bits, the slots of the stack in use hold
addresses a CALL can push, memory keeps its canonical form, and a halt is recorded truly
(10_state.md R36, an inference of the spec; 60_exceptions.md R281). -/
def Obligations.StepKeepsTheInvariant : Prop :=
  ∀ s t : State, Inv s → step s = .next t → Inv t

/-- Every session of the host, ticks, key events, acknowledgements, loads and resets in any order, leads
from reset only to states that meet the invariant (10_state.md R36, an inference of the spec). -/
def Obligations.SessionsStayInTheInvariant : Prop :=
  ∀ (actions : List HostAction) (t : State), hostRun actions State.reset = .next t → Inv t

/-- Once halted, a core stays halted with the same record through every session that holds no reset and
no load (60_exceptions.md R286, 70_reset_and_hazards.md R321; the spec's decision D8). -/
def Obligations.OnlyResetLeavesHalted : Prop :=
  ∀ (actions : List HostAction) (s t : State) (cause : Cause) (info : Word),
    s.status = .halted cause info → HostAction.reset ∉ actions →
    (∀ bytes, HostAction.load bytes ∉ actions) → hostRun actions s = .next t →
    t.status = .halted cause info ∧ t.pc = s.pc ∧ Untouched [.df, .keys] s t

/-- Who writes what (10_state.md R33, R23, R27, R29, R30, R31; 20_memory.md R64): in the execute phase `I`
is written only by LD_I, ADD_I, LD_F; the stack only by CALL and RET; DT only by LD_DT_VX and ST only
by LD_ST_VX; memory only by LD_B and ST_REGS; the framebuffer and the dirty flag only by CLS and DRW;
the key latch by none. -/
def Obligations.EachStoreHasItsOnlyWriters : Prop :=
  ∀ (i : Instr) (s t : State), exec i s = .next t →
    (t.i ≠ s.i → (∃ nnn, i = .ldI nnn) ∨ (∃ x, i = .addI x) ∨ ∃ x, i = .ldF x) ∧
    (t.sp ≠ s.sp ∨ t.stk ≠ s.stk → i = .ret ∨ ∃ nnn, i = .call nnn) ∧
    (t.dt ≠ s.dt → ∃ x, i = .ldDtVx x) ∧ (t.st ≠ s.st → ∃ x, i = .ldStVx x) ∧
    (t.mem ≠ s.mem → (∃ x, i = .ldB x) ∨ ∃ x, i = .stRegs x) ∧
    (t.fb ≠ s.fb ∨ t.df ≠ s.df → i = .cls ∨ ∃ x y n, i = .drw x y n) ∧
    t.keys = s.keys

/-- VF changes in the execute phase only by the six flag writers, or by an instruction that names it as
its destination, and the five register flag writers leave 0 or 1 in it whatever their `x`
(10_state.md R22; that the flag remains for x = F is the spec's decision D11). -/
def Obligations.FlagRegisterHasItsOnlyWriters : Prop :=
  ∀ (i : Instr) (s t : State), exec i s = .next t →
    (t.reg 15 ≠ s.reg 15 →
      (∃ x y, i = .add x y ∨ i = .sub x y ∨ i = .shr x y ∨ i = .subn x y ∨ i = .shl x y) ∨
      (∃ x y n, i = .drw x y n) ∨
      (∃ kk, i = .ldImm 15 kk ∨ i = .addImm 15 kk ∨ i = .rnd 15 kk) ∨
      (∃ y, i = .mov 15 y ∨ i = .or 15 y ∨ i = .and 15 y ∨ i = .xor 15 y) ∨
      i = .ldVxDt 15 ∨ i = .ldVxK 15 ∨ i = .ldRegs 15) ∧
    ((∃ x y, i = .add x y ∨ i = .sub x y ∨ i = .shr x y ∨ i = .subn x y ∨ i = .shl x y) →
      t.reg 15 = 0 ∨ t.reg 15 = 1)

/-- Nothing a program can observe depends on the sound timer, the dirty flag, the stale slots of the
stack, the last outputs or the boot phase (10_state.md R26, R27; 50_interfaces.md R256; D7,
D15, D18). -/
def Obligations.OutputsDoNotSteerTheMachine : Prop :=
  ∀ s₁ s₂ t₁ t₂ : State, SteersAlike s₁ s₂ → step s₁ = .next t₁ → step s₂ = .next t₂ →
    SteersAlike t₁ t₂

/-! ## Control transfer (41_flow.md) -/

/-- RET (R141) pops the address to go to; on an empty stack it halts with StackUnderflow and the `pc` of
the RET (D7). -/
def Obligations.ReturnPopsOrUnderflows : Prop :=
  decode 0x00EE = .ok .ret ∧
  ∀ s : State,
    (∀ j : Fin 16, s.sp.val = j.val + 1 →
      ∃ t, exec .ret s = .next t ∧ t.pc = s.stk[j] ∧ t.sp.val = j.val ∧
        Untouched [.sp] s t ∧ Reports .ok false s t) ∧
    (s.sp.val = 0 → ∃ t, exec .ret s = .next t ∧ Halts .stackUnderflow s.pc s t)

/-- CALL (R143) pushes `pc + 2` and jumps; on a full stack it halts with StackOverflow and the `pc` of
the CALL (D7). -/
def Obligations.CallPushesOrOverflows : Prop :=
  ∀ nnn : Addr12, decode (word (0x2000 + nnn.toNat)) = .ok (.call nnn) ∧
  ∀ s : State,
    (∀ j : Fin 16, s.sp.val = j.val →
      ∃ t, exec (.call nnn) s = .next t ∧ t.pc.toNat = nnn.toNat ∧ t.sp.val = j.val + 1 ∧
        t.stk[j] = s.pc + 2 ∧ Untouched [.sp, .slot j] s t ∧ Reports .ok false s t) ∧
    (s.sp.val = 16 → ∃ t, exec (.call nnn) s = .next t ∧ Halts .stackOverflow s.pc s t)

/-- A RET after a CALL comes back to the instruction after the CALL and undoes it but for the stale slot
(R143, D7; 90_conflicts.md C4). -/
def Obligations.CallThenReturnComesBack : Prop :=
  ∀ (nnn : Addr12) (s t : State) (j : Fin 16), s.sp.val = j.val → exec (.call nnn) s = .next t →
    ∃ u, exec .ret t = .next u ∧ u.pc = s.pc + 2 ∧ u.stk[j] = s.pc + 2 ∧ Untouched [.slot j] s u

/-- JP (R142): `pc` is `nnn`, odd or out of range as it may be; a running core that jumped below 0x200 or
to 0xFFF halts with `PcOutOfRange` and that `pc` when it fetches (the bounds are the spec's decision
D5). -/
def Obligations.JumpSetsPc : Prop :=
  ∀ nnn : Addr12, decode (word (0x1000 + nnn.toNat)) = .ok (.jp nnn) ∧
  ∀ s : State, ∃ t, exec (.jp nnn) s = .next t ∧ t.pc.toNat = nnn.toNat ∧ Untouched [] s t ∧
    Reports .ok false s t ∧
    (s.status = .running → (nnn.toNat < 0x200 ∨ nnn.toNat = 0xFFF) →
      ∃ u, step t = .next u ∧ u.status = .halted .pcOutOfRange t.pc)

/-- JP V0 (R147): the unmasked 16-bit sum of `nnn` and V0; a running core that jumped out of range halts
with `PcOutOfRange` when it fetches (the bounds are the spec's decision D5). -/
def Obligations.JumpWithOffsetAddsV0 : Prop :=
  ∀ nnn : Addr12, decode (word (0xB000 + nnn.toNat)) = .ok (.jpV0 nnn) ∧
  ∀ s : State, ∃ t, exec (.jpV0 nnn) s = .next t ∧
    t.pc.toNat = nnn.toNat + (s.reg 0).toNat ∧ Untouched [] s t ∧ Reports .ok false s t ∧
    (s.status = .running → (t.pc.toNat < 0x200 ∨ 0xFFE < t.pc.toNat) →
      ∃ u, step t = .next u ∧ u.status = .halted .pcOutOfRange t.pc)

/-- SE Vx, kk (R144) and SNE Vx, kk (R145): four or two further, as the unsigned comparison of Vx with kk
says. -/
def Obligations.ImmediateSkipsCompareTheRegister : Prop :=
  ∀ (x : Reg) (kk : Byte),
    decode (word (0x3000 + 0x100 * x.val + kk.toNat)) = .ok (.seImm x kk) ∧
    decode (word (0x4000 + 0x100 * x.val + kk.toNat)) = .ok (.sneImm x kk) ∧
  ∀ s : State,
    (∃ t, exec (.seImm x kk) s = .next t ∧
      ((s.reg x).toNat = kk.toNat → t.pc = s.pc + 4) ∧
      ((s.reg x).toNat ≠ kk.toNat → t.pc = s.pc + 2) ∧
      Untouched [] s t ∧ Reports .ok false s t) ∧
    (∃ t, exec (.sneImm x kk) s = .next t ∧
      ((s.reg x).toNat ≠ kk.toNat → t.pc = s.pc + 4) ∧
      ((s.reg x).toNat = kk.toNat → t.pc = s.pc + 2) ∧
      Untouched [] s t ∧ Reports .ok false s t)

/-- SE Vx, Vy and SNE Vx, Vy (R146, R148), whatever the ignored low nibble of the word is
(30_encoding.md R98, the spec's decision D4). -/
def Obligations.RegisterSkipsIgnoreTheLowNibble : Prop :=
  ∀ (x y : Reg) (low : Nibble) (s : State),
    decode (word (0x5000 + 0x100 * x.val + 0x10 * y.val + low.toNat)) = .ok (.seReg x y low) ∧
    decode (word (0x9000 + 0x100 * x.val + 0x10 * y.val + low.toNat)) = .ok (.sneReg x y low) ∧
    (∃ t, exec (.seReg x y low) s = .next t ∧
      (s.reg x = s.reg y → t.pc = s.pc + 4) ∧ (s.reg x ≠ s.reg y → t.pc = s.pc + 2) ∧
      Untouched [] s t ∧ Reports .ok false s t) ∧
    (∃ t, exec (.sneReg x y low) s = .next t ∧
      (s.reg x ≠ s.reg y → t.pc = s.pc + 4) ∧ (s.reg x = s.reg y → t.pc = s.pc + 2) ∧
      Untouched [] s t ∧ Reports .ok false s t)

/-! ## Registers and arithmetic (42_alu.md) -/

/-- LD Vx, kk (R162). -/
def Obligations.LoadImmediateSetsRegister : Prop :=
  ∀ (x : Reg) (kk : Byte), decode (word (0x6000 + 0x100 * x.val + kk.toNat)) = .ok (.ldImm x kk) ∧
  ∀ s : State, ∃ t, exec (.ldImm x kk) s = .next t ∧ t.reg x = kk ∧ t.pc = s.pc + 2 ∧
    Untouched [.reg x] s t ∧ Reports .ok false s t

/-- ADD Vx, kk (R163): modulo 256, and VF is not written unless it is the destination. -/
def Obligations.AddImmediateWrapsWithoutFlag : Prop :=
  ∀ (x : Reg) (kk : Byte), decode (word (0x7000 + 0x100 * x.val + kk.toNat)) = .ok (.addImm x kk) ∧
  ∀ s : State, ∃ t, exec (.addImm x kk) s = .next t ∧
    (t.reg x).toNat = ((s.reg x).toNat + kk.toNat) % 256 ∧ t.pc = s.pc + 2 ∧
    Untouched [.reg x] s t ∧ Reports .ok false s t

/-- MOV Vx, Vy (R164). -/
def Obligations.MoveCopiesRegister : Prop :=
  ∀ x y : Reg,
    decode (word (0x8000 + 0x100 * x.val + 0x10 * y.val)) = .ok (.mov x y) ∧
  ∀ s : State, ∃ t, exec (.mov x y) s = .next t ∧ t.reg x = s.reg y ∧ t.pc = s.pc + 2 ∧
    Untouched [.reg x] s t ∧ Reports .ok false s t

/-- OR, AND, XOR (R165, R166, R167): bit by bit, and VF is not written unless it is the destination
(the frame is the spec's decision D12). -/
def Obligations.LogicIsBitwiseWithoutFlag : Prop :=
  ∀ (x y : Reg) (s : State),
    (∃ t, exec (.or x y) s = .next t ∧
      (∀ b, (t.reg x).getLsbD b = ((s.reg x).getLsbD b || (s.reg y).getLsbD b)) ∧
      t.pc = s.pc + 2 ∧ Untouched [.reg x] s t ∧ Reports .ok false s t) ∧
    (∃ t, exec (.and x y) s = .next t ∧
      (∀ b, (t.reg x).getLsbD b = ((s.reg x).getLsbD b && (s.reg y).getLsbD b)) ∧
      t.pc = s.pc + 2 ∧ Untouched [.reg x] s t ∧ Reports .ok false s t) ∧
    (∃ t, exec (.xor x y) s = .next t ∧
      (∀ b, (t.reg x).getLsbD b = ((s.reg x).getLsbD b ^^ (s.reg y).getLsbD b)) ∧
      t.pc = s.pc + 2 ∧ Untouched [.reg x] s t ∧ Reports .ok false s t)

/-- ADD Vx, Vy (R168): the sum modulo 256, and VF the carry; with x = F the carry is what VF holds
(the spec's decision D11). -/
def Obligations.AddSetsCarry : Prop :=
  ∀ x y : Reg,
    decode (word (0x8004 + 0x100 * x.val + 0x10 * y.val)) = .ok (.add x y) ∧
  ∀ s : State, ∃ t, exec (.add x y) s = .next t ∧
    (x ≠ 15 → (t.reg x).toNat = ((s.reg x).toNat + (s.reg y).toNat) % 256) ∧
    t.reg 15 = (if (s.reg x).toNat + (s.reg y).toNat > 255 then 1 else 0) ∧
    t.pc = s.pc + 2 ∧ Untouched [.reg x, .reg 15] s t ∧ Reports .ok false s t

/-- SUB Vx, Vy (R169): the difference modulo 256, and VF 1 if there is no borrow; with x = F that flag is
what VF holds (the spec's decision D11). -/
def Obligations.SubtractSetsNoBorrow : Prop :=
  ∀ x y : Reg,
    decode (word (0x8005 + 0x100 * x.val + 0x10 * y.val)) = .ok (.sub x y) ∧
  ∀ s : State, ∃ t, exec (.sub x y) s = .next t ∧
    (x ≠ 15 → ((t.reg x).toNat : Int) = ((s.reg x).toNat - (s.reg y).toNat : Int) % 256) ∧
    t.reg 15 = (if (s.reg x).toNat ≥ (s.reg y).toNat then 1 else 0) ∧
    t.pc = s.pc + 2 ∧ Untouched [.reg x, .reg 15] s t ∧ Reports .ok false s t

/-- SUBN Vx, Vy (R171): Vy - Vx modulo 256, and VF 1 if there is no borrow; with x = F that flag is what
VF holds (the spec's decision D11). -/
def Obligations.ReverseSubtractSetsNoBorrow : Prop :=
  ∀ x y : Reg,
    decode (word (0x8007 + 0x100 * x.val + 0x10 * y.val)) = .ok (.subn x y) ∧
  ∀ s : State, ∃ t, exec (.subn x y) s = .next t ∧
    (x ≠ 15 → ((t.reg x).toNat : Int) = ((s.reg y).toNat - (s.reg x).toNat : Int) % 256) ∧
    t.reg 15 = (if (s.reg y).toNat ≥ (s.reg x).toNat then 1 else 0) ∧
    t.pc = s.pc + 2 ∧ Untouched [.reg x, .reg 15] s t ∧ Reports .ok false s t

/-- SHR Vx and SHL Vx (R170, R172): Vx halved, Vx doubled modulo 256, VF the bit shifted out; `y` is
ignored (the spec's decisions D11 and D12). -/
def Obligations.ShiftsMoveTheLostBitToTheFlag : Prop :=
  ∀ (x y : Reg) (s : State),
    decode (word (0x8006 + 0x100 * x.val + 0x10 * y.val)) = .ok (.shr x y) ∧
    decode (word (0x800E + 0x100 * x.val + 0x10 * y.val)) = .ok (.shl x y) ∧
    (∃ t, exec (.shr x y) s = .next t ∧ (x ≠ 15 → (t.reg x).toNat = (s.reg x).toNat / 2) ∧
      (t.reg 15).toNat = (s.reg x).toNat % 2 ∧
      t.pc = s.pc + 2 ∧ Untouched [.reg x, .reg 15] s t ∧ Reports .ok false s t) ∧
    (∃ t, exec (.shl x y) s = .next t ∧ (x ≠ 15 → (t.reg x).toNat = 2 * (s.reg x).toNat % 256) ∧
      (t.reg 15).toNat = (s.reg x).toNat / 128 ∧
      t.pc = s.pc + 2 ∧ Untouched [.reg x, .reg 15] s t ∧ Reports .ok false s t)

/-- RND Vx, kk (R173): some byte under the mask, the host's byte where one is scripted; no bit outside
the mask is set, whatever the draw (D14; the script and the free byte after it are logs 1 and 2). -/
def Obligations.RandomIsTheDrawUnderTheMask : Prop :=
  ∀ (x : Reg) (kk : Byte) (s : State), ∃ t, exec (.rnd x kk) s = .next t ∧
    (∃ draw : Byte, t.reg x = draw &&& kk) ∧
    (∀ input rest, s.port.inputs = input :: rest → t.reg x = input.rnd &&& kk) ∧
    t.pc = s.pc + 2 ∧ Untouched [.reg x] s t ∧ Reports .ok false s t

/-! ## Address register and memory (43_index_memory.md) -/

/-- LD I, nnn (R191). -/
def Obligations.LoadIndexSetsI : Prop :=
  ∀ nnn : Addr12, decode (word (0xA000 + nnn.toNat)) = .ok (.ldI nnn) ∧
  ∀ s : State, ∃ t, exec (.ldI nnn) s = .next t ∧ t.i.toNat = nnn.toNat ∧ t.pc = s.pc + 2 ∧
    Untouched [.i] s t ∧ Reports .ok false s t

/-- ADD I, Vx (R192): modulo 4096, VF not written (the spec's decision D10). -/
def Obligations.AddToIndexWrapsWithoutFlag : Prop :=
  ∀ x : Reg, decode (word (0xF01E + 0x100 * x.val)) = .ok (.addI x) ∧
  ∀ s : State, ∃ t, exec (.addI x) s = .next t ∧
    t.i.toNat = (s.i.toNat + (s.reg x).toNat) % 4096 ∧ t.pc = s.pc + 2 ∧
    Untouched [.i] s t ∧ Reports .ok false s t

/-- LD F, Vx (R193): the glyph of the low nibble, five bytes each. -/
def Obligations.FontAddressIsFiveTimesTheDigit : Prop :=
  ∀ x : Reg, decode (word (0xF029 + 0x100 * x.val)) = .ok (.ldF x) ∧
  ∀ s : State, ∃ t, exec (.ldF x) s = .next t ∧
    t.i.toNat = 5 * ((s.reg x).toNat % 16) ∧ t.pc = s.pc + 2 ∧
    Untouched [.i] s t ∧ Reports .ok false s t

/-- LD B, Vx (R197): hundreds, tens and units at I, I + 1, I + 2; a block that passes 0xFFF halts with
MemOutOfRange and nothing is written (20_memory.md R70, the spec's decision D9). -/
def Obligations.DecimalDigitsAreStored : Prop :=
  ∀ x : Reg, decode (word (0xF033 + 0x100 * x.val)) = .ok (.ldB x) ∧
  ∀ s : State,
    (s.mem.wf = true → s.i.toNat + 2 ≤ 0xFFF →
      ∃ t, exec (.ldB x) s = .next t ∧
        (t.mem.read s.i.toNat).toNat = (s.reg x).toNat / 100 ∧
        (t.mem.read (s.i.toNat + 1)).toNat = (s.reg x).toNat / 10 % 10 ∧
        (t.mem.read (s.i.toNat + 2)).toNat = (s.reg x).toNat % 10 ∧
        t.pc = s.pc + 2 ∧ Untouched [.bytes s.i.toNat 3] s t ∧ Reports .ok false s t) ∧
    (0xFFF < s.i.toNat + 2 → ∃ t, exec (.ldB x) s = .next t ∧
      Halts .memOutOfRange (BitVec.ofNat 16 (s.i.toNat + 2)) s t)

/-- LD [I], Vx (R198): V0 to Vx stored at I upward, I unchanged; a block that passes 0xFFF halts with
MemOutOfRange and no byte is written (20_memory.md R70, the spec's decisions D9 and D12). -/
def Obligations.RegistersAreStored : Prop :=
  ∀ x : Reg, decode (word (0xF055 + 0x100 * x.val)) = .ok (.stRegs x) ∧
  ∀ s : State,
    (s.mem.wf = true → s.i.toNat + x.val ≤ 0xFFF →
      ∃ t, exec (.stRegs x) s = .next t ∧
        (∀ k : Reg, k ≤ x → t.mem.read (s.i.toNat + k.val) = s.reg k) ∧
        t.pc = s.pc + 2 ∧ Untouched [.bytes s.i.toNat (x.val + 1)] s t ∧ Reports .ok false s t) ∧
    (0xFFF < s.i.toNat + x.val → ∃ t, exec (.stRegs x) s = .next t ∧
      Halts .memOutOfRange (BitVec.ofNat 16 (s.i.toNat + x.val)) s t)

/-- LD Vx, [I] (R199): V0 to Vx loaded from I upward, the registers above Vx and I unchanged; a block
that passes 0xFFF halts with MemOutOfRange and no register is written (20_memory.md R70, the spec's
decisions D9 and D12). -/
def Obligations.RegistersAreLoaded : Prop :=
  ∀ x : Reg, decode (word (0xF065 + 0x100 * x.val)) = .ok (.ldRegs x) ∧
  ∀ s : State,
    (s.i.toNat + x.val ≤ 0xFFF →
      ∃ t, exec (.ldRegs x) s = .next t ∧
        (∀ k : Reg, k ≤ x → t.reg k = s.mem.read (s.i.toNat + k.val)) ∧
        (∀ k : Reg, x < k → t.reg k = s.reg k) ∧
        t.pc = s.pc + 2 ∧
        Untouched ((List.finRange 16).map Part.reg) s t ∧ Reports .ok false s t) ∧
    (0xFFF < s.i.toNat + x.val → ∃ t, exec (.ldRegs x) s = .next t ∧
      Halts .memOutOfRange (BitVec.ofNat 16 (s.i.toNat + x.val)) s t)

/-- The round trips of R200, an inference of the spec: storing V0 to Vx and loading them back restores
every register; loading them and storing them back leaves every byte of memory as it was. -/
def Obligations.StoreAndLoadRoundTrip : Prop :=
  ∀ (x : Reg) (s : State), s.mem.wf = true → s.i.toNat + x.val ≤ 0xFFF →
    (∃ t u, exec (.stRegs x) s = .next t ∧ exec (.ldRegs x) t = .next u ∧ u.v = s.v) ∧
    (∃ t u, exec (.ldRegs x) s = .next t ∧ exec (.stRegs x) t = .next u ∧
      ∀ a, u.mem.read a = s.mem.read a)

/-! ## Display (44_display.md) -/

/-- The framebuffer's two operations, of R210: `clear` leaves every cell 0; `xor_pixel` inverts the
one cell its wrapped coordinates name, returns whether it was lit, and changes no other. -/
def Obligations.XorPixelInvertsOneCell : Prop :=
  (∀ px py : Nat, pixelAt clearFb px py = false) ∧
  ∀ (fb : Framebuffer) (x y px py : Nat), px < 64 → py < 32 →
    collides fb x y = pixelAt fb (x % 64) (y % 32) ∧
    (px = x % 64 ∧ py = y % 32 → pixelAt (xorPixel fb x y) px py = !pixelAt fb px py) ∧
    (¬(px = x % 64 ∧ py = y % 32) → pixelAt (xorPixel fb x y) px py = pixelAt fb px py)

/-- CLS (R211): every cell 0, the dirty flag set, a redraw reported, VF unchanged. -/
def Obligations.ClearScreenEmptiesTheFramebuffer : Prop :=
  decode 0x00E0 = .ok .cls ∧
  ∀ s : State, ∃ t, exec .cls s = .next t ∧
    (∀ px py : Nat, pixelAt t.fb px py = false) ∧ t.df = true ∧ t.pc = s.pc + 2 ∧
    Untouched [.fb, .df] s t ∧ Reports .ok true s t

/-- DRW (R212, R213): where the rows lie in memory, each cell is inverted exactly if the sprite, placed at
the full values of Vx and Vy with both coordinates wrapping, has a 1 bit for it; VF is 1 exactly if
such a cell was lit (bit 7 leftmost is the spec's general knowledge, D20). -/
def Obligations.DrawXorsTheSprite : Prop :=
  ∀ (x y : Reg) (n : Nibble),
    decode (word (0xD000 + 0x100 * x.val + 0x10 * y.val + n.toNat)) = .ok (.drw x y n) ∧
  ∀ s : State, (n.toNat = 0 ∨ s.i.toNat + n.toNat - 1 ≤ 0xFFF) →
    ∃ t, exec (.drw x y n) s = .next t ∧
      (∀ px py : Nat, px < 64 → py < 32 →
        (SpriteCovers s (s.reg x).toNat (s.reg y).toNat n.toNat px py →
          pixelAt t.fb px py = !pixelAt s.fb px py) ∧
        (¬SpriteCovers s (s.reg x).toNat (s.reg y).toNat n.toNat px py →
          pixelAt t.fb px py = pixelAt s.fb px py)) ∧
      ((∃ px py, px < 64 ∧ py < 32 ∧ pixelAt s.fb px py = true ∧
          SpriteCovers s (s.reg x).toNat (s.reg y).toNat n.toNat px py) → t.reg 15 = 1) ∧
      ((¬∃ px py, px < 64 ∧ py < 32 ∧ pixelAt s.fb px py = true ∧
          SpriteCovers s (s.reg x).toNat (s.reg y).toNat n.toNat px py) → t.reg 15 = 0) ∧
      t.df = true ∧ t.pc = s.pc + 2 ∧ Untouched [.reg 15, .fb, .df] s t ∧ Reports .ok true s t

/-- DRW whose rows run past 0xFFF halts with MemOutOfRange, the framebuffer, VF and DF untouched (R212,
20_memory.md R70, the spec's decision D9). -/
def Obligations.DrawPastMemoryHalts : Prop :=
  ∀ (x y : Reg) (n : Nibble) (s : State), n.toNat ≠ 0 → 0xFFF < s.i.toNat + n.toNat - 1 →
    ∃ t, exec (.drw x y n) s = .next t ∧
      Halts .memOutOfRange (BitVec.ofNat 16 (s.i.toNat + n.toNat - 1)) s t

/-- Drawing the same sprite twice at the same place restores the framebuffer (R215). The second draw
leaves VF = 1 if the first went onto cells that were all 0 under its set bits and it has one; a
sprite with no set bit leaves VF = 0 both times. The place is the same only if the first draw left both
coordinate registers as they were, which VF as a coordinate need not be. -/
def Obligations.DrawingTwiceRestores : Prop :=
  ∀ (x y : Reg) (n : Nibble) (s t u : State),
    (n.toNat = 0 ∨ s.i.toNat + n.toNat - 1 ≤ 0xFFF) →
    exec (.drw x y n) s = .next t → t.reg x = s.reg x → t.reg y = s.reg y →
    exec (.drw x y n) t = .next u →
    u.fb = s.fb ∧
    ((∃ px py, px < 64 ∧ py < 32 ∧ SpriteCovers s (s.reg x).toNat (s.reg y).toNat n.toNat px py) →
      (∀ px py, px < 64 → py < 32 →
        SpriteCovers s (s.reg x).toNat (s.reg y).toNat n.toNat px py → pixelAt s.fb px py = false) →
      t.reg 15 = 0 ∧ u.reg 15 = 1) ∧
    ((¬∃ px py, px < 64 ∧ py < 32 ∧
        SpriteCovers s (s.reg x).toNat (s.reg y).toNat n.toNat px py) →
      t.reg 15 = 0 ∧ u.reg 15 = 0)

/-! ## Keys and timers (45_input_timers.md) -/

/-- SKP Vx (R231) and SKNP Vx (R232): the latch slot of the low nibble of Vx decides. Neither waits, and
the latch is not changed. -/
def Obligations.KeySkipsReadTheLatch : Prop :=
  ∀ x : Reg,
    decode (word (0xE09E + 0x100 * x.val)) = .ok (.skp x) ∧
    decode (word (0xE0A1 + 0x100 * x.val)) = .ok (.sknp x) ∧
  ∀ (s : State) (k : Key), k.val = (s.reg x).toNat % 16 →
    (∃ t, exec (.skp x) s = .next t ∧
      (s.keys[k] = true → t.pc = s.pc + 4) ∧ (s.keys[k] = false → t.pc = s.pc + 2) ∧
      Untouched [] s t ∧ Reports .ok false s t) ∧
    (∃ t, exec (.sknp x) s = .next t ∧
      (s.keys[k] = false → t.pc = s.pc + 4) ∧ (s.keys[k] = true → t.pc = s.pc + 2) ∧
      Untouched [] s t ∧ Reports .ok false s t)

/-- LD Vx, K (R235): with a key-down event offered to the tick the instruction completes with the key's
code; with none it waits and nothing changes, keys held down or not. A whole waiting tick changes
nothing either, the timers included (R236; both are the spec's decision D13). -/
def Obligations.KeyWaitCompletesOnlyOnAnEvent : Prop :=
  ∀ (x : Reg) (s : State),
    (∀ (k : Key) (draw : Byte) (rest : List TickIn), s.port.inputs = ⟨some k, draw⟩ :: rest →
      ∃ t, exec (.ldVxK x) s = .next t ∧ (t.reg x).toNat = k.val ∧ t.pc = s.pc + 2 ∧
        Untouched [.reg x] s t ∧ Reports .ok false s t) ∧
    (∀ (draw : Byte) (rest : List TickIn), s.port.inputs = ⟨none, draw⟩ :: rest →
      (∃ t, exec (.ldVxK x) s = .next t ∧ t.pc = s.pc ∧ Untouched [] s t ∧
        Reports .waiting false s t) ∧
      (Fetches s (.ldVxK x) → ∃ u, step s = .next u ∧ u.pc = s.pc ∧ Untouched [] s u ∧
        u.port.out = some ⟨.waiting, false⟩ ∧ Consumed s.port u.port))

/-- LD Vx, DT (R237): the delay timer's value at the start of the step; the whole step then counts it down
(40_step_cycle.md R126, an inference the spec marks as its own). -/
def Obligations.TimerReadGivesTheValueBeforeTheStep : Prop :=
  ∀ x : Reg, decode (word (0xF007 + 0x100 * x.val)) = .ok (.ldVxDt x) ∧
  ∀ s : State,
    (∃ t, exec (.ldVxDt x) s = .next t ∧ t.reg x = s.dt ∧ t.pc = s.pc + 2 ∧
      Untouched [.reg x] s t ∧ Reports .ok false s t) ∧
    (Fetches s (.ldVxDt x) → ∃ u, step s = .next u ∧ u.reg x = s.dt ∧
      u.dt.toNat = s.dt.toNat - 1)

/-- LD DT, Vx and LD ST, Vx (R238, R239): the timer is Vx after the execute phase, and at the end of the
same tick Vx - 1, or 0 if Vx is 0 (40_step_cycle.md R126, an inference the spec marks as its own). -/
def Obligations.TimerWritesCountDownInTheSameTick : Prop :=
  ∀ (x : Reg) (s : State),
    decode (word (0xF015 + 0x100 * x.val)) = .ok (.ldDtVx x) ∧
    decode (word (0xF018 + 0x100 * x.val)) = .ok (.ldStVx x) ∧
    (∃ t, exec (.ldDtVx x) s = .next t ∧ t.dt = s.reg x ∧ t.pc = s.pc + 2 ∧
      Untouched [.dt] s t ∧ Reports .ok false s t) ∧
    (∃ t, exec (.ldStVx x) s = .next t ∧ t.st = s.reg x ∧ t.pc = s.pc + 2 ∧
      Untouched [.st] s t ∧ Reports .ok false s t) ∧
    (Fetches s (.ldDtVx x) → ∃ u, step s = .next u ∧ u.dt.toNat = (s.reg x).toNat - 1) ∧
    (Fetches s (.ldStVx x) → ∃ u, step s = .next u ∧ u.st.toNat = (s.reg x).toNat - 1)

/-! ## Reset and the host's ports (50_interfaces.md, 70_reset_and_hazards.md) -/

/-- The reset state (10_state.md R35, 70_reset_and_hazards.md R320): registers, `I`, `SP`, the stack, the
timers, the framebuffer, the dirty flag and the latch zero, `pc` 0x200, running; memory 0x00 outside
the font. The zeros of DT, ST, STK, DF and of unloaded memory are the spec's decision D15. -/
def Obligations.ResetStateIsAsTabled : Prop :=
  (∀ r : Reg, State.reset.reg r = 0) ∧ State.reset.i = 0 ∧ State.reset.pc = 0x200 ∧
  State.reset.sp = 0 ∧ (∀ j : Fin 16, State.reset.stk[j] = 0) ∧
  State.reset.dt = 0 ∧ State.reset.st = 0 ∧ (∀ a, 80 ≤ a → State.reset.mem.read a = 0x00) ∧
  (∀ px py : Nat, pixelAt State.reset.fb px py = false) ∧ State.reset.df = false ∧
  (∀ k : Key, State.reset.keys[k] = false) ∧ State.reset.status = .running

/-- The font at reset: glyph `d` in the five bytes at `5 * d`, the top row first (20_memory.md R66; the
byte values are general knowledge that the spec adopts, D16, and log 6 of this model). -/
def Obligations.ResetMemoryHoldsTheFont : Prop :=
  readBlock State.reset.mem 0x000 40 =
    [0xF0, 0x90, 0x90, 0x90, 0xF0, 0x20, 0x60, 0x20, 0x20, 0x70, 0xF0, 0x10, 0xF0, 0x80, 0xF0,
     0xF0, 0x10, 0xF0, 0x10, 0xF0, 0x90, 0x90, 0xF0, 0x10, 0x10, 0xF0, 0x80, 0xF0, 0x10, 0xF0,
     0xF0, 0x80, 0xF0, 0x90, 0xF0, 0xF0, 0x10, 0x20, 0x40, 0x40] ∧
  readBlock State.reset.mem 0x028 40 =
    [0xF0, 0x90, 0xF0, 0x90, 0xF0, 0xF0, 0x90, 0xF0, 0x10, 0xF0, 0xF0, 0x90, 0xF0, 0x90, 0x90,
     0xE0, 0x90, 0xE0, 0x90, 0xE0, 0xF0, 0x80, 0x80, 0x80, 0xF0, 0xE0, 0x90, 0x90, 0x90, 0xE0,
     0xF0, 0x80, 0xF0, 0x80, 0xF0, 0xF0, 0x80, 0xF0, 0x80, 0x80]

/-- Load (50_interfaces.md R259, 70_reset_and_hazards.md R323): the first load after reset and before the
first tick copies up to 3584 bytes to 0x200 and changes nothing else; a longer image is refused with
its length (the spec's decision D19). -/
def Obligations.LoadCopiesTheImageOrRefuses : Prop :=
  ∀ (bytes : List Byte) (s : State), s.port.boot = .fresh → s.mem.wf = true →
    (bytes.length ≤ 3584 → ∃ t, hostLoad bytes s = .next t ∧
      (∀ k (h : k < bytes.length), t.mem.read (0x200 + k) = bytes[k]) ∧ t.pc.toNat = 0x200 ∧
      Untouched [.bytes 0x200 bytes.length] s t ∧ t.mem.wf = true) ∧
    (3584 < bytes.length → hostLoad bytes s = .refused (.romTooLarge bytes.length))

/-- Reset (50_interfaces.md R260, 70_reset_and_hazards.md R321): from any state, halted included, all the
architectural state is that of the reset state, the loaded program gone (D15, D19). -/
def Obligations.ResetRestoresTheResetState : Prop :=
  ∀ s : State, Untouched [] State.reset (hostReset s) ∧ (hostReset s).pc = 0x200 ∧
    (hostReset s).mem = [] ∧ (hostReset s).status = .running ∧ (hostReset s).port.boot = .fresh

/-- Key events and the render acknowledge (50_interfaces.md R253, R256): one slot of the latch, the dirty
flag, and nothing else (D18, D22). -/
def Obligations.KeyEventsAndAcknowledgeWriteOneThing : Prop :=
  ∀ (s : State) (k : Key),
    ((hostKeyDown k s).keys[k] = true ∧ (hostKeyUp k s).keys[k] = false) ∧
    (∀ l : Key, l ≠ k → (hostKeyDown k s).keys[l] = s.keys[l] ∧ (hostKeyUp k s).keys[l] = s.keys[l]) ∧
    Untouched [.keys] s (hostKeyDown k s) ∧ Untouched [.keys] s (hostKeyUp k s) ∧
    (hostRenderAck s).df = false ∧ Untouched [.df] s (hostRenderAck s) ∧
    (hostKeyDown k s).pc = s.pc ∧ (hostKeyUp k s).pc = s.pc ∧ (hostRenderAck s).pc = s.pc

/-- Every action of the host, a tick with any inputs, a key event, an acknowledgement, a load or a reset,
keeps the invariant, from every state that meets it (10_state.md R36, an inference of the spec; its
clause on the boot phase is this model's, log 4). -/
def Obligations.HostActionsKeepTheInvariant : Prop :=
  ∀ (a : HostAction) (s t : State), Inv s → hostAct a s = .next t → Inv t
end

