-- ==== Sys2Proof/Laws/State.lean ====
section
/-! SUPPORT. One lemma per field and update of State, so that no later proof unfolds a record update, and the
same for the register read. Where an update writes the field, the lemma gives the new value. -/

namespace Sys2Proof.Machine

/-! ### setReg -/

@[simp] theorem State.setReg_v (s : State) (r : Reg) (b : Byte) : (s.setReg r b).v = s.v.set r b := rfl
@[simp] theorem State.setReg_i (s : State) (r : Reg) (b : Byte) : (s.setReg r b).i = s.i := rfl
@[simp] theorem State.setReg_pc (s : State) (r : Reg) (b : Byte) : (s.setReg r b).pc = s.pc := rfl
@[simp] theorem State.setReg_stk (s : State) (r : Reg) (b : Byte) : (s.setReg r b).stk = s.stk := rfl
@[simp] theorem State.setReg_sp (s : State) (r : Reg) (b : Byte) : (s.setReg r b).sp = s.sp := rfl
@[simp] theorem State.setReg_dt (s : State) (r : Reg) (b : Byte) : (s.setReg r b).dt = s.dt := rfl
@[simp] theorem State.setReg_st (s : State) (r : Reg) (b : Byte) : (s.setReg r b).st = s.st := rfl
@[simp] theorem State.setReg_mem (s : State) (r : Reg) (b : Byte) : (s.setReg r b).mem = s.mem := rfl
@[simp] theorem State.setReg_fb (s : State) (r : Reg) (b : Byte) : (s.setReg r b).fb = s.fb := rfl
@[simp] theorem State.setReg_df (s : State) (r : Reg) (b : Byte) : (s.setReg r b).df = s.df := rfl
@[simp] theorem State.setReg_keys (s : State) (r : Reg) (b : Byte) : (s.setReg r b).keys = s.keys := rfl
@[simp] theorem State.setReg_status (s : State) (r : Reg) (b : Byte) : (s.setReg r b).status = s.status := rfl
@[simp] theorem State.setReg_port (s : State) (r : Reg) (b : Byte) : (s.setReg r b).port = s.port := rfl

/-! ### loadRegs -/

@[simp] theorem State.loadRegs_i (s : State) (bytes : List Byte) : (s.loadRegs bytes).i = s.i := rfl
@[simp] theorem State.loadRegs_pc (s : State) (bytes : List Byte) : (s.loadRegs bytes).pc = s.pc := rfl
@[simp] theorem State.loadRegs_stk (s : State) (bytes : List Byte) : (s.loadRegs bytes).stk = s.stk := rfl
@[simp] theorem State.loadRegs_sp (s : State) (bytes : List Byte) : (s.loadRegs bytes).sp = s.sp := rfl
@[simp] theorem State.loadRegs_dt (s : State) (bytes : List Byte) : (s.loadRegs bytes).dt = s.dt := rfl
@[simp] theorem State.loadRegs_st (s : State) (bytes : List Byte) : (s.loadRegs bytes).st = s.st := rfl
@[simp] theorem State.loadRegs_mem (s : State) (bytes : List Byte) : (s.loadRegs bytes).mem = s.mem := rfl
@[simp] theorem State.loadRegs_fb (s : State) (bytes : List Byte) : (s.loadRegs bytes).fb = s.fb := rfl
@[simp] theorem State.loadRegs_df (s : State) (bytes : List Byte) : (s.loadRegs bytes).df = s.df := rfl
@[simp] theorem State.loadRegs_keys (s : State) (bytes : List Byte) : (s.loadRegs bytes).keys = s.keys := rfl
@[simp] theorem State.loadRegs_status (s : State) (bytes : List Byte) : (s.loadRegs bytes).status = s.status := rfl
@[simp] theorem State.loadRegs_port (s : State) (bytes : List Byte) : (s.loadRegs bytes).port = s.port := rfl

/-! ### setI -/

@[simp] theorem State.setI_v (s : State) (a : Word) : (s.setI a).v = s.v := rfl
@[simp] theorem State.setI_i (s : State) (a : Word) : (s.setI a).i = a &&& 0x0FFF := rfl
@[simp] theorem State.setI_pc (s : State) (a : Word) : (s.setI a).pc = s.pc := rfl
@[simp] theorem State.setI_stk (s : State) (a : Word) : (s.setI a).stk = s.stk := rfl
@[simp] theorem State.setI_sp (s : State) (a : Word) : (s.setI a).sp = s.sp := rfl
@[simp] theorem State.setI_dt (s : State) (a : Word) : (s.setI a).dt = s.dt := rfl
@[simp] theorem State.setI_st (s : State) (a : Word) : (s.setI a).st = s.st := rfl
@[simp] theorem State.setI_mem (s : State) (a : Word) : (s.setI a).mem = s.mem := rfl
@[simp] theorem State.setI_fb (s : State) (a : Word) : (s.setI a).fb = s.fb := rfl
@[simp] theorem State.setI_df (s : State) (a : Word) : (s.setI a).df = s.df := rfl
@[simp] theorem State.setI_keys (s : State) (a : Word) : (s.setI a).keys = s.keys := rfl
@[simp] theorem State.setI_status (s : State) (a : Word) : (s.setI a).status = s.status := rfl
@[simp] theorem State.setI_port (s : State) (a : Word) : (s.setI a).port = s.port := rfl
@[simp] theorem State.setI_reg (s : State) (a : Word) (q : Reg) : (s.setI a).reg q = s.reg q := rfl

/-! ### setPc -/

@[simp] theorem State.setPc_v (s : State) (a : Word) : (s.setPc a).v = s.v := rfl
@[simp] theorem State.setPc_i (s : State) (a : Word) : (s.setPc a).i = s.i := rfl
@[simp] theorem State.setPc_pc (s : State) (a : Word) : (s.setPc a).pc = a := rfl
@[simp] theorem State.setPc_stk (s : State) (a : Word) : (s.setPc a).stk = s.stk := rfl
@[simp] theorem State.setPc_sp (s : State) (a : Word) : (s.setPc a).sp = s.sp := rfl
@[simp] theorem State.setPc_dt (s : State) (a : Word) : (s.setPc a).dt = s.dt := rfl
@[simp] theorem State.setPc_st (s : State) (a : Word) : (s.setPc a).st = s.st := rfl
@[simp] theorem State.setPc_mem (s : State) (a : Word) : (s.setPc a).mem = s.mem := rfl
@[simp] theorem State.setPc_fb (s : State) (a : Word) : (s.setPc a).fb = s.fb := rfl
@[simp] theorem State.setPc_df (s : State) (a : Word) : (s.setPc a).df = s.df := rfl
@[simp] theorem State.setPc_keys (s : State) (a : Word) : (s.setPc a).keys = s.keys := rfl
@[simp] theorem State.setPc_status (s : State) (a : Word) : (s.setPc a).status = s.status := rfl
@[simp] theorem State.setPc_port (s : State) (a : Word) : (s.setPc a).port = s.port := rfl
@[simp] theorem State.setPc_reg (s : State) (a : Word) (q : Reg) : (s.setPc a).reg q = s.reg q := rfl

/-! ### setDt -/

@[simp] theorem State.setDt_v (s : State) (b : Byte) : (s.setDt b).v = s.v := rfl
@[simp] theorem State.setDt_i (s : State) (b : Byte) : (s.setDt b).i = s.i := rfl
@[simp] theorem State.setDt_pc (s : State) (b : Byte) : (s.setDt b).pc = s.pc := rfl
@[simp] theorem State.setDt_stk (s : State) (b : Byte) : (s.setDt b).stk = s.stk := rfl
@[simp] theorem State.setDt_sp (s : State) (b : Byte) : (s.setDt b).sp = s.sp := rfl
@[simp] theorem State.setDt_dt (s : State) (b : Byte) : (s.setDt b).dt = b := rfl
@[simp] theorem State.setDt_st (s : State) (b : Byte) : (s.setDt b).st = s.st := rfl
@[simp] theorem State.setDt_mem (s : State) (b : Byte) : (s.setDt b).mem = s.mem := rfl
@[simp] theorem State.setDt_fb (s : State) (b : Byte) : (s.setDt b).fb = s.fb := rfl
@[simp] theorem State.setDt_df (s : State) (b : Byte) : (s.setDt b).df = s.df := rfl
@[simp] theorem State.setDt_keys (s : State) (b : Byte) : (s.setDt b).keys = s.keys := rfl
@[simp] theorem State.setDt_status (s : State) (b : Byte) : (s.setDt b).status = s.status := rfl
@[simp] theorem State.setDt_port (s : State) (b : Byte) : (s.setDt b).port = s.port := rfl
@[simp] theorem State.setDt_reg (s : State) (b : Byte) (q : Reg) : (s.setDt b).reg q = s.reg q := rfl

/-! ### setSt -/

@[simp] theorem State.setSt_v (s : State) (b : Byte) : (s.setSt b).v = s.v := rfl
@[simp] theorem State.setSt_i (s : State) (b : Byte) : (s.setSt b).i = s.i := rfl
@[simp] theorem State.setSt_pc (s : State) (b : Byte) : (s.setSt b).pc = s.pc := rfl
@[simp] theorem State.setSt_stk (s : State) (b : Byte) : (s.setSt b).stk = s.stk := rfl
@[simp] theorem State.setSt_sp (s : State) (b : Byte) : (s.setSt b).sp = s.sp := rfl
@[simp] theorem State.setSt_dt (s : State) (b : Byte) : (s.setSt b).dt = s.dt := rfl
@[simp] theorem State.setSt_st (s : State) (b : Byte) : (s.setSt b).st = b := rfl
@[simp] theorem State.setSt_mem (s : State) (b : Byte) : (s.setSt b).mem = s.mem := rfl
@[simp] theorem State.setSt_fb (s : State) (b : Byte) : (s.setSt b).fb = s.fb := rfl
@[simp] theorem State.setSt_df (s : State) (b : Byte) : (s.setSt b).df = s.df := rfl
@[simp] theorem State.setSt_keys (s : State) (b : Byte) : (s.setSt b).keys = s.keys := rfl
@[simp] theorem State.setSt_status (s : State) (b : Byte) : (s.setSt b).status = s.status := rfl
@[simp] theorem State.setSt_port (s : State) (b : Byte) : (s.setSt b).port = s.port := rfl
@[simp] theorem State.setSt_reg (s : State) (b : Byte) (q : Reg) : (s.setSt b).reg q = s.reg q := rfl

/-! ### setMem -/

@[simp] theorem State.setMem_v (s : State) (m : Memory) : (s.setMem m).v = s.v := rfl
@[simp] theorem State.setMem_i (s : State) (m : Memory) : (s.setMem m).i = s.i := rfl
@[simp] theorem State.setMem_pc (s : State) (m : Memory) : (s.setMem m).pc = s.pc := rfl
@[simp] theorem State.setMem_stk (s : State) (m : Memory) : (s.setMem m).stk = s.stk := rfl
@[simp] theorem State.setMem_sp (s : State) (m : Memory) : (s.setMem m).sp = s.sp := rfl
@[simp] theorem State.setMem_dt (s : State) (m : Memory) : (s.setMem m).dt = s.dt := rfl
@[simp] theorem State.setMem_st (s : State) (m : Memory) : (s.setMem m).st = s.st := rfl
@[simp] theorem State.setMem_mem (s : State) (m : Memory) : (s.setMem m).mem = m := rfl
@[simp] theorem State.setMem_fb (s : State) (m : Memory) : (s.setMem m).fb = s.fb := rfl
@[simp] theorem State.setMem_df (s : State) (m : Memory) : (s.setMem m).df = s.df := rfl
@[simp] theorem State.setMem_keys (s : State) (m : Memory) : (s.setMem m).keys = s.keys := rfl
@[simp] theorem State.setMem_status (s : State) (m : Memory) : (s.setMem m).status = s.status := rfl
@[simp] theorem State.setMem_port (s : State) (m : Memory) : (s.setMem m).port = s.port := rfl
@[simp] theorem State.setMem_reg (s : State) (m : Memory) (q : Reg) : (s.setMem m).reg q = s.reg q := rfl

/-! ### setFb -/

@[simp] theorem State.setFb_v (s : State) (fb : Framebuffer) : (s.setFb fb).v = s.v := rfl
@[simp] theorem State.setFb_i (s : State) (fb : Framebuffer) : (s.setFb fb).i = s.i := rfl
@[simp] theorem State.setFb_pc (s : State) (fb : Framebuffer) : (s.setFb fb).pc = s.pc := rfl
@[simp] theorem State.setFb_stk (s : State) (fb : Framebuffer) : (s.setFb fb).stk = s.stk := rfl
@[simp] theorem State.setFb_sp (s : State) (fb : Framebuffer) : (s.setFb fb).sp = s.sp := rfl
@[simp] theorem State.setFb_dt (s : State) (fb : Framebuffer) : (s.setFb fb).dt = s.dt := rfl
@[simp] theorem State.setFb_st (s : State) (fb : Framebuffer) : (s.setFb fb).st = s.st := rfl
@[simp] theorem State.setFb_mem (s : State) (fb : Framebuffer) : (s.setFb fb).mem = s.mem := rfl
@[simp] theorem State.setFb_fb (s : State) (fb : Framebuffer) : (s.setFb fb).fb = fb := rfl
@[simp] theorem State.setFb_df (s : State) (fb : Framebuffer) : (s.setFb fb).df = s.df := rfl
@[simp] theorem State.setFb_keys (s : State) (fb : Framebuffer) : (s.setFb fb).keys = s.keys := rfl
@[simp] theorem State.setFb_status (s : State) (fb : Framebuffer) : (s.setFb fb).status = s.status := rfl
@[simp] theorem State.setFb_port (s : State) (fb : Framebuffer) : (s.setFb fb).port = s.port := rfl
@[simp] theorem State.setFb_reg (s : State) (fb : Framebuffer) (q : Reg) : (s.setFb fb).reg q = s.reg q := rfl

/-! ### setDf -/

@[simp] theorem State.setDf_v (s : State) (b : Bool) : (s.setDf b).v = s.v := rfl
@[simp] theorem State.setDf_i (s : State) (b : Bool) : (s.setDf b).i = s.i := rfl
@[simp] theorem State.setDf_pc (s : State) (b : Bool) : (s.setDf b).pc = s.pc := rfl
@[simp] theorem State.setDf_stk (s : State) (b : Bool) : (s.setDf b).stk = s.stk := rfl
@[simp] theorem State.setDf_sp (s : State) (b : Bool) : (s.setDf b).sp = s.sp := rfl
@[simp] theorem State.setDf_dt (s : State) (b : Bool) : (s.setDf b).dt = s.dt := rfl
@[simp] theorem State.setDf_st (s : State) (b : Bool) : (s.setDf b).st = s.st := rfl
@[simp] theorem State.setDf_mem (s : State) (b : Bool) : (s.setDf b).mem = s.mem := rfl
@[simp] theorem State.setDf_fb (s : State) (b : Bool) : (s.setDf b).fb = s.fb := rfl
@[simp] theorem State.setDf_df (s : State) (b : Bool) : (s.setDf b).df = b := rfl
@[simp] theorem State.setDf_keys (s : State) (b : Bool) : (s.setDf b).keys = s.keys := rfl
@[simp] theorem State.setDf_status (s : State) (b : Bool) : (s.setDf b).status = s.status := rfl
@[simp] theorem State.setDf_port (s : State) (b : Bool) : (s.setDf b).port = s.port := rfl
@[simp] theorem State.setDf_reg (s : State) (b : Bool) (q : Reg) : (s.setDf b).reg q = s.reg q := rfl

/-! ### setKey -/

@[simp] theorem State.setKey_v (s : State) (k : Key) (b : Bool) : (s.setKey k b).v = s.v := rfl
@[simp] theorem State.setKey_i (s : State) (k : Key) (b : Bool) : (s.setKey k b).i = s.i := rfl
@[simp] theorem State.setKey_pc (s : State) (k : Key) (b : Bool) : (s.setKey k b).pc = s.pc := rfl
@[simp] theorem State.setKey_stk (s : State) (k : Key) (b : Bool) : (s.setKey k b).stk = s.stk := rfl
@[simp] theorem State.setKey_sp (s : State) (k : Key) (b : Bool) : (s.setKey k b).sp = s.sp := rfl
@[simp] theorem State.setKey_dt (s : State) (k : Key) (b : Bool) : (s.setKey k b).dt = s.dt := rfl
@[simp] theorem State.setKey_st (s : State) (k : Key) (b : Bool) : (s.setKey k b).st = s.st := rfl
@[simp] theorem State.setKey_mem (s : State) (k : Key) (b : Bool) : (s.setKey k b).mem = s.mem := rfl
@[simp] theorem State.setKey_fb (s : State) (k : Key) (b : Bool) : (s.setKey k b).fb = s.fb := rfl
@[simp] theorem State.setKey_df (s : State) (k : Key) (b : Bool) : (s.setKey k b).df = s.df := rfl
@[simp] theorem State.setKey_keys (s : State) (k : Key) (b : Bool) : (s.setKey k b).keys = s.keys.set k b := rfl
@[simp] theorem State.setKey_status (s : State) (k : Key) (b : Bool) : (s.setKey k b).status = s.status := rfl
@[simp] theorem State.setKey_port (s : State) (k : Key) (b : Bool) : (s.setKey k b).port = s.port := rfl
@[simp] theorem State.setKey_reg (s : State) (k : Key) (b : Bool) (q : Reg) : (s.setKey k b).reg q = s.reg q := rfl

/-! ### setStatus -/

@[simp] theorem State.setStatus_v (s : State) (x : Status) : (s.setStatus x).v = s.v := rfl
@[simp] theorem State.setStatus_i (s : State) (x : Status) : (s.setStatus x).i = s.i := rfl
@[simp] theorem State.setStatus_pc (s : State) (x : Status) : (s.setStatus x).pc = s.pc := rfl
@[simp] theorem State.setStatus_stk (s : State) (x : Status) : (s.setStatus x).stk = s.stk := rfl
@[simp] theorem State.setStatus_sp (s : State) (x : Status) : (s.setStatus x).sp = s.sp := rfl
@[simp] theorem State.setStatus_dt (s : State) (x : Status) : (s.setStatus x).dt = s.dt := rfl
@[simp] theorem State.setStatus_st (s : State) (x : Status) : (s.setStatus x).st = s.st := rfl
@[simp] theorem State.setStatus_mem (s : State) (x : Status) : (s.setStatus x).mem = s.mem := rfl
@[simp] theorem State.setStatus_fb (s : State) (x : Status) : (s.setStatus x).fb = s.fb := rfl
@[simp] theorem State.setStatus_df (s : State) (x : Status) : (s.setStatus x).df = s.df := rfl
@[simp] theorem State.setStatus_keys (s : State) (x : Status) : (s.setStatus x).keys = s.keys := rfl
@[simp] theorem State.setStatus_status (s : State) (x : Status) : (s.setStatus x).status = x := rfl
@[simp] theorem State.setStatus_port (s : State) (x : Status) : (s.setStatus x).port = s.port := rfl
@[simp] theorem State.setStatus_reg (s : State) (x : Status) (q : Reg) : (s.setStatus x).reg q = s.reg q := rfl

/-! ### setPort -/

@[simp] theorem State.setPort_v (s : State) (p : Port) : (s.setPort p).v = s.v := rfl
@[simp] theorem State.setPort_i (s : State) (p : Port) : (s.setPort p).i = s.i := rfl
@[simp] theorem State.setPort_pc (s : State) (p : Port) : (s.setPort p).pc = s.pc := rfl
@[simp] theorem State.setPort_stk (s : State) (p : Port) : (s.setPort p).stk = s.stk := rfl
@[simp] theorem State.setPort_sp (s : State) (p : Port) : (s.setPort p).sp = s.sp := rfl
@[simp] theorem State.setPort_dt (s : State) (p : Port) : (s.setPort p).dt = s.dt := rfl
@[simp] theorem State.setPort_st (s : State) (p : Port) : (s.setPort p).st = s.st := rfl
@[simp] theorem State.setPort_mem (s : State) (p : Port) : (s.setPort p).mem = s.mem := rfl
@[simp] theorem State.setPort_fb (s : State) (p : Port) : (s.setPort p).fb = s.fb := rfl
@[simp] theorem State.setPort_df (s : State) (p : Port) : (s.setPort p).df = s.df := rfl
@[simp] theorem State.setPort_keys (s : State) (p : Port) : (s.setPort p).keys = s.keys := rfl
@[simp] theorem State.setPort_status (s : State) (p : Port) : (s.setPort p).status = s.status := rfl
@[simp] theorem State.setPort_port (s : State) (p : Port) : (s.setPort p).port = p := rfl
@[simp] theorem State.setPort_reg (s : State) (p : Port) (q : Reg) : (s.setPort p).reg q = s.reg q := rfl

/-! ### setOut -/

@[simp] theorem State.setOut_v (s : State) (o : TickOutcome) (r : Bool) : (s.setOut o r).v = s.v := rfl
@[simp] theorem State.setOut_i (s : State) (o : TickOutcome) (r : Bool) : (s.setOut o r).i = s.i := rfl
@[simp] theorem State.setOut_pc (s : State) (o : TickOutcome) (r : Bool) : (s.setOut o r).pc = s.pc := rfl
@[simp] theorem State.setOut_stk (s : State) (o : TickOutcome) (r : Bool) : (s.setOut o r).stk = s.stk := rfl
@[simp] theorem State.setOut_sp (s : State) (o : TickOutcome) (r : Bool) : (s.setOut o r).sp = s.sp := rfl
@[simp] theorem State.setOut_dt (s : State) (o : TickOutcome) (r : Bool) : (s.setOut o r).dt = s.dt := rfl
@[simp] theorem State.setOut_st (s : State) (o : TickOutcome) (r : Bool) : (s.setOut o r).st = s.st := rfl
@[simp] theorem State.setOut_mem (s : State) (o : TickOutcome) (r : Bool) : (s.setOut o r).mem = s.mem := rfl
@[simp] theorem State.setOut_fb (s : State) (o : TickOutcome) (r : Bool) : (s.setOut o r).fb = s.fb := rfl
@[simp] theorem State.setOut_df (s : State) (o : TickOutcome) (r : Bool) : (s.setOut o r).df = s.df := rfl
@[simp] theorem State.setOut_keys (s : State) (o : TickOutcome) (r : Bool) : (s.setOut o r).keys = s.keys := rfl
@[simp] theorem State.setOut_status (s : State) (o : TickOutcome) (r : Bool) : (s.setOut o r).status = s.status := rfl
@[simp] theorem State.setOut_port (s : State) (o : TickOutcome) (r : Bool) : (s.setOut o r).port = { s.port with out := some ⟨o, r⟩ } := rfl
@[simp] theorem State.setOut_reg (s : State) (o : TickOutcome) (r : Bool) (q : Reg) : (s.setOut o r).reg q = s.reg q := rfl

/-! ### push -/

@[simp] theorem State.push_v (s : State) (a : Word) (room : s.sp.val < 16) : (s.push a room).v = s.v := rfl
@[simp] theorem State.push_i (s : State) (a : Word) (room : s.sp.val < 16) : (s.push a room).i = s.i := rfl
@[simp] theorem State.push_pc (s : State) (a : Word) (room : s.sp.val < 16) : (s.push a room).pc = s.pc := rfl
@[simp] theorem State.push_stk (s : State) (a : Word) (room : s.sp.val < 16) : (s.push a room).stk = s.stk.set s.sp.val a := rfl
@[simp] theorem State.push_dt (s : State) (a : Word) (room : s.sp.val < 16) : (s.push a room).dt = s.dt := rfl
@[simp] theorem State.push_st (s : State) (a : Word) (room : s.sp.val < 16) : (s.push a room).st = s.st := rfl
@[simp] theorem State.push_mem (s : State) (a : Word) (room : s.sp.val < 16) : (s.push a room).mem = s.mem := rfl
@[simp] theorem State.push_fb (s : State) (a : Word) (room : s.sp.val < 16) : (s.push a room).fb = s.fb := rfl
@[simp] theorem State.push_df (s : State) (a : Word) (room : s.sp.val < 16) : (s.push a room).df = s.df := rfl
@[simp] theorem State.push_keys (s : State) (a : Word) (room : s.sp.val < 16) : (s.push a room).keys = s.keys := rfl
@[simp] theorem State.push_status (s : State) (a : Word) (room : s.sp.val < 16) : (s.push a room).status = s.status := rfl
@[simp] theorem State.push_port (s : State) (a : Word) (room : s.sp.val < 16) : (s.push a room).port = s.port := rfl
@[simp] theorem State.push_reg (s : State) (a : Word) (room : s.sp.val < 16) (q : Reg) : (s.push a room).reg q = s.reg q := rfl

/-! ### pop -/

@[simp] theorem State.pop_v (s : State) : (s.pop).v = s.v := rfl
@[simp] theorem State.pop_i (s : State) : (s.pop).i = s.i := rfl
@[simp] theorem State.pop_pc (s : State) : (s.pop).pc = s.pc := rfl
@[simp] theorem State.pop_stk (s : State) : (s.pop).stk = s.stk := rfl
@[simp] theorem State.pop_dt (s : State) : (s.pop).dt = s.dt := rfl
@[simp] theorem State.pop_st (s : State) : (s.pop).st = s.st := rfl
@[simp] theorem State.pop_mem (s : State) : (s.pop).mem = s.mem := rfl
@[simp] theorem State.pop_fb (s : State) : (s.pop).fb = s.fb := rfl
@[simp] theorem State.pop_df (s : State) : (s.pop).df = s.df := rfl
@[simp] theorem State.pop_keys (s : State) : (s.pop).keys = s.keys := rfl
@[simp] theorem State.pop_status (s : State) : (s.pop).status = s.status := rfl
@[simp] theorem State.pop_port (s : State) : (s.pop).port = s.port := rfl
@[simp] theorem State.pop_reg (s : State) (q : Reg) : (s.pop).reg q = s.reg q := rfl

@[simp] theorem State.push_sp_val (s : State) (a : Word) (room : s.sp.val < 16) :
    (s.push a room).sp.val = s.sp.val + 1 := rfl

@[simp] theorem State.pop_sp_val (s : State) : s.pop.sp.val = s.sp.val - 1 := rfl

/-- A push writes the slot at `SP` and no other. -/
theorem State.push_slot (s : State) (a : Word) (room : s.sp.val < 16) (j : Fin 16) :
    (s.push a room).stk[j] = if j.val = s.sp.val then a else s.stk[j] := by
  simp [State.push, Vector.getElem_set, eq_comm]

/-- What a RET after a push would go to. -/
@[simp] theorem State.push_top (s : State) (a : Word) (room : s.sp.val < 16) : (s.push a room).top = a := by
  simp [State.top, State.push]

/-- The top of a stack that holds something. -/
theorem State.top_eq (s : State) (j : Fin 16) (h : s.sp.val = j.val + 1) : s.top = s.stk[j] := by
  simp [State.top, h]

theorem State.setReg_reg (s : State) (r : Reg) (b : Byte) (q : Reg) :
    (s.setReg r b).reg q = if q = r then b else s.reg q := by
  simp only [State.reg, State.setReg, Fin.getElem_fin, Vector.getElem_set, Fin.ext_iff]
  split <;> simp_all [eq_comm]

@[simp] theorem State.setReg_reg_same (s : State) (r : Reg) (b : Byte) : (s.setReg r b).reg r = b := by
  simp [State.setReg_reg]

@[simp] theorem State.setReg_reg_ne (s : State) (r : Reg) (b : Byte) (q : Reg) (h : q ≠ r) :
    (s.setReg r b).reg q = s.reg q := by
  simp [State.setReg_reg, h]

theorem State.loadRegs_reg (s : State) (bytes : List Byte) (q : Reg) :
    (s.loadRegs bytes).reg q = (bytes[q.val]?).getD (s.reg q) := by
  simp [State.reg, State.loadRegs]

theorem State.setFlagged_reg (s : State) (x : Reg) (b : Byte) (f : Bool) (q : Reg) :
    (s.setFlagged x b f).reg q = if q = regF then flagByte f else if q = x then b else s.reg q := by
  simp [State.setFlagged, State.setReg_reg]

@[simp] theorem State.firstRegs_length (s : State) (x : Reg) : (s.firstRegs x).length = x.val + 1 := by
  simp [State.firstRegs]

theorem State.firstRegs_getElem (s : State) (x k : Reg) (h : k.val < (s.firstRegs x).length) :
    (s.firstRegs x)[k.val] = s.reg k := by
  simp [State.firstRegs, State.reg]

/-- Two states with the same registers have the same register file. -/
theorem State.v_eq_of_reg (s t : State) (h : ∀ r, s.reg r = t.reg r) : s.v = t.v := by
  apply Vector.ext
  intro k hk
  exact h ⟨k, hk⟩

end Sys2Proof.Machine
end

