-- ==== Sys2Proof/Laws/Memory.lean ====
section
/-! SUPPORT. Memory: a read after a write to the same place gives the value written, a write leaves every other
place alone, every operation keeps the canonical form; then the same for blocks. -/

namespace Sys2Proof.Machine

@[simp] theorem Memory.read_nil (a : Nat) : Memory.read [] a = unlisted a := rfl

@[simp] theorem Memory.read_cons (b : Nat) (v : Byte) (m : Memory) (a : Nat) :
    Memory.read ((b, v) :: m) a = if a = b then v else m.read a := rfl

theorem Memory.read_consCell_other (a : Nat) (v : Byte) (m : Memory) (b : Nat) (h : b ≠ a) :
    (Memory.cons a v m).read b = m.read b := by
  unfold Memory.cons; split <;> simp [h]

/-- Below the addresses a canonical list starts at, every byte has its reset content. -/
theorem Memory.read_below (m : Memory) (low a : Nat) (h : Memory.wfFrom low m = true) (ha : a < low) :
    m.read a = unlisted a := by
  induction m generalizing low with
  | nil => rfl
  | cons c rest ih =>
    obtain ⟨b, v⟩ := c
    simp only [Memory.wfFrom, Bool.and_eq_true, decide_eq_true_eq] at h
    have hne : a ≠ b := by omega
    simp only [Memory.read_cons, hne, if_false]
    exact ih (b + 1) h.2 (by omega)

theorem Memory.wfFrom_mono (m : Memory) (low low' : Nat) (h : Memory.wfFrom low m = true) (hl : low' ≤ low) :
    Memory.wfFrom low' m = true := by
  cases m with
  | nil => rfl
  | cons c rest =>
    simp only [Memory.wfFrom, Bool.and_eq_true, decide_eq_true_eq] at h ⊢
    exact ⟨⟨⟨by omega, h.1.1.2⟩, h.1.2⟩, h.2⟩

theorem Memory.wfFrom_consCell (m : Memory) (low a : Nat) (v : Byte) (hl : low ≤ a) (ha : a ≤ memTop)
    (h : Memory.wfFrom (a + 1) m = true) : Memory.wfFrom low (Memory.cons a v m) = true := by
  unfold Memory.cons
  split
  · exact Memory.wfFrom_mono m (a + 1) low h (by omega)
  · simp only [Memory.wfFrom, Bool.and_eq_true, decide_eq_true_eq]
    exact ⟨⟨⟨hl, ha⟩, by simpa using ‹¬v = unlisted a›⟩, h⟩

theorem Memory.read_consCell_same (m : Memory) (a : Nat) (v : Byte) (h : Memory.wfFrom (a + 1) m = true) :
    (Memory.cons a v m).read a = v := by
  unfold Memory.cons
  split
  · next he => rw [Memory.read_below m (a + 1) a h (by omega), he]
  · simp

/-- A write leaves every other byte alone. -/
theorem Memory.read_write_other (m : Memory) (a : Nat) (v : Byte) (b : Nat) (h : b ≠ a) :
    (m.write a v).read b = m.read b := by
  induction m with
  | nil => exact Memory.read_consCell_other a v [] b h
  | cons c rest ih =>
    obtain ⟨d, w⟩ := c
    simp only [Memory.write]
    split
    · exact Memory.read_consCell_other a v _ b h
    · split
      · next he => rw [Memory.read_consCell_other a v rest b h]; simp [← he, h]
      · simp [ih]

theorem Memory.read_write_same_from (m : Memory) (low a : Nat) (v : Byte) (h : Memory.wfFrom low m = true) :
    (m.write a v).read a = v := by
  induction m generalizing low with
  | nil => exact Memory.read_consCell_same [] a v rfl
  | cons c rest ih =>
    obtain ⟨d, w⟩ := c
    have hw := h
    simp only [Memory.wfFrom, Bool.and_eq_true, decide_eq_true_eq] at h
    simp only [Memory.write]
    split
    · next hlt =>
      refine Memory.read_consCell_same _ a v ?_
      simp only [Memory.wfFrom, Bool.and_eq_true, decide_eq_true_eq]
      exact ⟨⟨⟨hlt, h.1.1.2⟩, h.1.2⟩, h.2⟩
    · split
      · next he => subst he; exact Memory.read_consCell_same rest a v h.2
      · next hne => simp [hne, ih (d + 1) h.2]

/-- A read after a write to the same place gives the value written. -/
theorem Memory.read_write_same (m : Memory) (a : Nat) (v : Byte) (h : m.wf = true) :
    (m.write a v).read a = v :=
  Memory.read_write_same_from m 0 a v h

theorem Memory.wfFrom_write (m : Memory) (low a : Nat) (v : Byte) (h : Memory.wfFrom low m = true)
    (hl : low ≤ a) (ha : a ≤ memTop) : Memory.wfFrom low (m.write a v) = true := by
  induction m generalizing low with
  | nil => exact Memory.wfFrom_consCell [] low a v hl ha rfl
  | cons c rest ih =>
    obtain ⟨d, w⟩ := c
    simp only [Memory.wfFrom, Bool.and_eq_true, decide_eq_true_eq] at h
    simp only [Memory.write]
    split
    · next hlt =>
      refine Memory.wfFrom_consCell _ low a v hl ha ?_
      simp only [Memory.wfFrom, Bool.and_eq_true, decide_eq_true_eq]
      exact ⟨⟨⟨hlt, h.1.1.2⟩, h.1.2⟩, h.2⟩
    · split
      · next he => subst he; exact Memory.wfFrom_consCell rest low a v hl ha h.2
      · next hge hne =>
        simp only [Memory.wfFrom, Bool.and_eq_true, decide_eq_true_eq]
        exact ⟨h.1, ih (d + 1) h.2 (by omega)⟩

/-- A write inside memory keeps the canonical form. -/
theorem Memory.wf_write (m : Memory) (a : Nat) (v : Byte) (h : m.wf = true) (ha : a ≤ memTop) :
    (m.write a v).wf = true :=
  Memory.wfFrom_write m 0 a v h (Nat.zero_le _) ha

/-- Canonical memories that read alike are equal: the form is canonical. -/
theorem Memory.eq_of_reads_from (m : Memory) (m' : Memory) (low : Nat) (h : Memory.wfFrom low m = true)
    (h' : Memory.wfFrom low m' = true) (hr : ∀ a, m.read a = m'.read a) : m = m' := by
  induction m generalizing m' low with
  | nil =>
    cases m' with
    | nil => rfl
    | cons c rest =>
      obtain ⟨a, v⟩ := c
      simp only [Memory.wfFrom, Bool.and_eq_true, bne_iff_ne] at h'
      exact absurd (by simpa using (hr a).symm) h'.1.2
  | cons c rest ih =>
    obtain ⟨a, v⟩ := c
    cases m' with
    | nil =>
      simp only [Memory.wfFrom, Bool.and_eq_true, bne_iff_ne] at h
      exact absurd (by simpa using hr a) h.1.2
    | cons c' rest' =>
      obtain ⟨a', v'⟩ := c'
      simp only [Memory.wfFrom, Bool.and_eq_true, decide_eq_true_eq, bne_iff_ne] at h h'
      have ha : a = a' := by
        rcases Nat.lt_trichotomy a a' with hlt | he | hlt
        · have := hr a
          rw [Memory.read_cons, Memory.read_cons, if_pos rfl, if_neg (by omega),
            Memory.read_below rest' (a' + 1) a h'.2 (by omega)] at this
          exact absurd this h.1.2
        · exact he
        · have := hr a'
          rw [Memory.read_cons, Memory.read_cons, if_neg (by omega), if_pos rfl,
            Memory.read_below rest (a + 1) a' h.2 (by omega)] at this
          exact absurd this.symm h'.1.2
      subst ha
      have hv : v = v' := by simpa using hr a
      have hrest : rest = rest' := by
        refine ih rest' (a + 1) h.2 h'.2 fun b => ?_
        by_cases hb : b = a
        · rw [hb, Memory.read_below rest (a + 1) a h.2 (by omega),
            Memory.read_below rest' (a + 1) a h'.2 (by omega)]
        · simpa [hb] using hr b
      rw [hv, hrest]

/-- Reset memory, which lists nothing, is canonical. -/
theorem Memory.wf_reset : State.reset.mem.wf = true := rfl

/-! ## Blocks -/

@[simp] theorem readBlock_length (m : Memory) (a count : Nat) : (readBlock m a count).length = count := by
  induction count generalizing a with
  | zero => rfl
  | succ n ih => simp [readBlock, ih]

theorem readBlock_getElem? (m : Memory) (a count k : Nat) (hk : k < count) :
    (readBlock m a count)[k]? = some (m.read (a + k)) := by
  induction count generalizing a k with
  | zero => omega
  | succ n ih =>
    cases k with
    | zero => simp [readBlock]
    | succ k =>
      simp only [readBlock, List.getElem?_cons_succ]
      rw [ih (a + 1) k (by omega)]
      congr 2; omega

/-- A block store leaves every byte outside the block alone. -/
theorem read_storeBlock_outside (bytes : List Byte) (m : Memory) (a b : Nat)
    (h : b < a ∨ a + bytes.length ≤ b) : (storeBlock m a bytes).read b = m.read b := by
  induction bytes generalizing m a with
  | nil => rfl
  | cons c rest ih =>
    simp only [List.length_cons] at h
    simp only [storeBlock]
    rw [ih (m.write a c) (a + 1) (by omega), Memory.read_write_other m a c b (by omega)]

/-- A block store inside memory keeps the canonical form. -/
theorem storeBlock_wf (bytes : List Byte) (m : Memory) (a : Nat) (h : m.wf = true)
    (ha : a + bytes.length ≤ memTop + 1) : (storeBlock m a bytes).wf = true := by
  induction bytes generalizing m a with
  | nil => exact h
  | cons c rest ih =>
    simp only [List.length_cons] at ha
    exact ih (m.write a c) (a + 1) (Memory.wf_write m a c h (by omega)) (by omega)

/-- After a block store each byte of the block reads as the byte stored there. -/
theorem read_storeBlock_inside (bytes : List Byte) (m : Memory) (a : Nat) (h : m.wf = true)
    (ha : a + bytes.length ≤ memTop + 1) (k : Nat) (hk : k < bytes.length) :
    (storeBlock m a bytes).read (a + k) = bytes[k] := by
  induction bytes generalizing m a k with
  | nil => simp at hk
  | cons c rest ih =>
    simp only [List.length_cons] at ha hk
    simp only [storeBlock]
    cases k with
    | zero =>
      rw [read_storeBlock_outside rest (m.write a c) (a + 1) (a + 0) (by omega)]
      exact Memory.read_write_same m a c h
    | succ k =>
      have := ih (m.write a c) (a + 1) (Memory.wf_write m a c h (by omega)) (by omega) k (by omega)
      rw [show a + (k + 1) = a + 1 + k by omega, this]
      simp

end Sys2Proof.Machine
end

