-- ==== Sys2Proof/Laws/Ops.lean ====
section
/-! SUPPORT. For each shared operation, what it answers and what it leaves: the ways an instruction ends, the
block check, the end of a tick. Later proofs cite these instead of unfolding the operations. -/

namespace Sys2Proof.Machine

/-! ## How an instruction ends -/

@[simp] theorem complete_eq (target : Word) (redraw : Bool) (s : State) :
    complete target redraw s = .next ((s.setPc target).setOut .ok redraw) := rfl

@[simp] theorem raiseFatal_eq (cause : Cause) (info : Word) (s : State) :
    raiseFatal cause info s = .next ((s.setStatus (.halted cause info)).setOut (.fatal cause info) false) := rfl

@[simp] theorem waitForKey_eq (s : State) : waitForKey s = .next (s.setOut .waiting false) := rfl

@[simp] theorem takeDecodeFailure_eq (w : Word) (s : State) :
    takeDecodeFailure w s = .next ((s.setPc (s.pc + 2)).setOut (.decodeFailure w) false) := rfl

@[simp] theorem stayHalted_eq (cause : Cause) (info : Word) (s : State) :
    stayHalted cause info s = .next (s.setOut (.halted cause info) false) := rfl

/-- A raised fatal condition changes nothing but `status`. -/
theorem raiseFatal_halts (cause : Cause) (info : Word) (s : State) :
    ∃ t, raiseFatal cause info s = .next t ∧ Halts cause info s t :=
  ⟨_, rfl, rfl, rfl, ⟨fun _ _ => rfl, fun _ => rfl, fun _ _ => rfl, fun _ => rfl, fun _ => rfl,
    fun _ => rfl, fun _ _ => rfl, fun _ => rfl, fun _ => rfl, fun _ => rfl, fun h => absurd (by simp) h⟩, rfl⟩

/-! ## The block check -/

theorem State.blockOk_iff (s : State) (count : Nat) :
    s.blockOk count = true ↔ count = 0 ∨ s.i.toNat + count - 1 ≤ 0xFFF := by
  simp [State.blockOk, State.blockLast, memTop]

/-- Where the block lies in memory the body is done. -/
theorem withBlock_inside (count : Nat) (s : State) (body : Result)
    (h : count = 0 ∨ s.i.toNat + count - 1 ≤ 0xFFF) : withBlock count s body = body := by
  rw [withBlock, if_pos ((s.blockOk_iff count).2 h)]

/-- Where it does not, MemOutOfRange is raised with the last address. -/
theorem withBlock_outside (count : Nat) (s : State) (body : Result) (h0 : count ≠ 0)
    (h : 0xFFF < s.i.toNat + count - 1) :
    withBlock count s body = raiseFatal .memOutOfRange (BitVec.ofNat 16 (s.i.toNat + count - 1)) s := by
  rw [withBlock, if_neg (by rw [s.blockOk_iff]; omega)]
  rfl

/-- A checked block gives its body, or halts with the last address, which lies past 0xFFF. -/
theorem withBlock_cases (count : Nat) (s : State) (body : Result) :
    ((count = 0 ∨ s.i.toNat + count - 1 ≤ 0xFFF) ∧ withBlock count s body = body) ∨
    (0 < count ∧ 0xFFF < s.i.toNat + count - 1 ∧
      withBlock count s body =
        raiseFatal .memOutOfRange (BitVec.ofNat 16 (s.i.toNat + count - 1)) s) := by
  by_cases h : count = 0 ∨ s.i.toNat + count - 1 ≤ 0xFFF
  · exact .inl ⟨h, withBlock_inside count s body h⟩
  · exact .inr ⟨by omega, by omega, withBlock_outside count s body (by omega) (by omega)⟩

/-- Read from the answer: the body's, or the halt. -/
theorem withBlock_next {count : Nat} {s t : State} {body : Result} (h : withBlock count s body = .next t) :
    body = .next t ∨
    (0 < count ∧ 0xFFF < s.i.toNat + count - 1 ∧
      t = (s.setStatus (.halted .memOutOfRange (BitVec.ofNat 16 (s.i.toNat + count - 1)))).setOut
        (.fatal .memOutOfRange (BitVec.ofNat 16 (s.i.toNat + count - 1))) false) := by
  rcases withBlock_cases count s body with ⟨-, he⟩ | ⟨h1, h2, he⟩
  · exact .inl (he ▸ h)
  · rw [he] at h; cases h; exact .inr ⟨h1, h2, rfl⟩

/-! ## The end of a tick -/

/-- A timer counts down by one and stops at 0. -/
@[simp] theorem countDown_toNat (t : Byte) : (countDown t).toNat = t.toNat - 1 := by
  unfold countDown
  split
  · next h => subst h; rfl
  · next h => bv_omega

theorem timerPhase_eq (s : State) :
    timerPhase s = (s.setDt (countDown s.dt)).setSt (countDown s.st) := rfl

/-- What the end of a tick makes of a state: the timer phase if the step is complete, and the inputs
used up. -/
theorem endTick_cases (s : State) :
    (s.stepCompleted = true ∧ endTick s = (timerPhase s).setPort s.port.consume) ∨
    (s.stepCompleted = false ∧ endTick s = s.setPort s.port.consume) := by
  unfold endTick
  cases s.stepCompleted <;> simp

@[simp] theorem endTick_port (s : State) : (endTick s).port = s.port.consume := by
  rcases endTick_cases s with ⟨-, h⟩ | ⟨-, h⟩ <;> simp [h]

@[simp] theorem endTick_pc (s : State) : (endTick s).pc = s.pc := by
  rcases endTick_cases s with ⟨-, h⟩ | ⟨-, h⟩ <;> simp [h, timerPhase_eq]

@[simp] theorem endTick_i (s : State) : (endTick s).i = s.i := by
  rcases endTick_cases s with ⟨-, h⟩ | ⟨-, h⟩ <;> simp [h, timerPhase_eq]

@[simp] theorem endTick_v (s : State) : (endTick s).v = s.v := by
  rcases endTick_cases s with ⟨-, h⟩ | ⟨-, h⟩ <;> simp [h, timerPhase_eq]

@[simp] theorem endTick_reg (s : State) (r : Reg) : (endTick s).reg r = s.reg r := by
  simp [State.reg]

@[simp] theorem endTick_stk (s : State) : (endTick s).stk = s.stk := by
  rcases endTick_cases s with ⟨-, h⟩ | ⟨-, h⟩ <;> simp [h, timerPhase_eq]

@[simp] theorem endTick_sp (s : State) : (endTick s).sp = s.sp := by
  rcases endTick_cases s with ⟨-, h⟩ | ⟨-, h⟩ <;> simp [h, timerPhase_eq]

@[simp] theorem endTick_mem (s : State) : (endTick s).mem = s.mem := by
  rcases endTick_cases s with ⟨-, h⟩ | ⟨-, h⟩ <;> simp [h, timerPhase_eq]

@[simp] theorem endTick_fb (s : State) : (endTick s).fb = s.fb := by
  rcases endTick_cases s with ⟨-, h⟩ | ⟨-, h⟩ <;> simp [h, timerPhase_eq]

@[simp] theorem endTick_df (s : State) : (endTick s).df = s.df := by
  rcases endTick_cases s with ⟨-, h⟩ | ⟨-, h⟩ <;> simp [h, timerPhase_eq]

@[simp] theorem endTick_keys (s : State) : (endTick s).keys = s.keys := by
  rcases endTick_cases s with ⟨-, h⟩ | ⟨-, h⟩ <;> simp [h, timerPhase_eq]

@[simp] theorem endTick_status (s : State) : (endTick s).status = s.status := by
  rcases endTick_cases s with ⟨-, h⟩ | ⟨-, h⟩ <;> simp [h, timerPhase_eq]

theorem endTick_dt (s : State) : (endTick s).dt = if s.stepCompleted then countDown s.dt else s.dt := by
  rcases endTick_cases s with ⟨hc, h⟩ | ⟨hc, h⟩ <;> simp [h, hc, timerPhase_eq]

theorem endTick_st (s : State) : (endTick s).st = if s.stepCompleted then countDown s.st else s.st := by
  rcases endTick_cases s with ⟨hc, h⟩ | ⟨hc, h⟩ <;> simp [h, hc, timerPhase_eq]

@[simp] theorem Port.consume_out (p : Port) : p.consume.out = p.out := rfl

theorem Port.consume_consumed (p : Port) : Consumed p p.consume := ⟨rfl, rfl, rfl⟩

/-! ## Frames -/

/-- A state is untouched with respect to itself. -/
theorem Untouched.refl (written : List Part) (s : State) : Untouched written s s :=
  ⟨fun _ _ => rfl, fun _ => rfl, fun _ _ => rfl, fun _ => rfl, fun _ => rfl, fun _ => rfl, fun _ _ => rfl,
    fun _ => rfl, fun _ => rfl, fun _ => rfl, fun _ => rfl⟩

/-- A frame may list more. -/
theorem Untouched.mono {written more : List Part} {s t : State} (h : Untouched written s t)
    (hsub : ∀ p ∈ written, p ∈ more) : Untouched more s t :=
  ⟨fun r hr => h.reg r fun hm => hr (hsub _ hm), fun hr => h.i fun hm => hr (hsub _ hm),
    fun j hr => h.slot j fun hm => hr (hsub _ hm), fun hr => h.sp fun hm => hr (hsub _ hm),
    fun hr => h.dt fun hm => hr (hsub _ hm), fun hr => h.st fun hm => hr (hsub _ hm),
    fun a hr => h.mem a fun b c hm => hr b c (hsub _ hm), fun hr => h.fb fun hm => hr (hsub _ hm),
    fun hr => h.df fun hm => hr (hsub _ hm), fun hr => h.keys fun hm => hr (hsub _ hm),
    fun hr => h.status fun hm => hr (hsub _ hm)⟩

/-- Frames compose. -/
theorem Untouched.trans {written : List Part} {s t u : State} (h : Untouched written s t)
    (h' : Untouched written t u) : Untouched written s u :=
  ⟨fun r hr => (h'.reg r hr).trans (h.reg r hr), fun hr => (h'.i hr).trans (h.i hr),
    fun j hr => (h'.slot j hr).trans (h.slot j hr), fun hr => (h'.sp hr).trans (h.sp hr),
    fun hr => (h'.dt hr).trans (h.dt hr), fun hr => (h'.st hr).trans (h.st hr),
    fun a hr => (h'.mem a hr).trans (h.mem a hr), fun hr => (h'.fb hr).trans (h.fb hr),
    fun hr => (h'.df hr).trans (h.df hr), fun hr => (h'.keys hr).trans (h.keys hr),
    fun hr => (h'.status hr).trans (h.status hr)⟩

end Sys2Proof.Machine
end

