-- ==== Sys2Proof/Laws/Display.lean ====
section
/-! SUPPORT. The framebuffer operations cell by cell. -/

namespace Sys2Proof.Machine

@[simp] theorem pixelAt_clearFb (x y : Nat) : pixelAt clearFb x y = false := by
  simp [pixelAt, clearFb]

/-- A cell read wraps. -/
theorem pixelAt_wraps (fb : Framebuffer) (x y : Nat) : pixelAt fb (x % 64) (y % 32) = pixelAt fb x y := by
  simp [pixelAt]

/-- `xor_pixel` inverts the cell its coordinates name and no other. -/
theorem pixelAt_xorPixel (fb : Framebuffer) (x y px py : Nat) :
    pixelAt (xorPixel fb x y) px py =
      (pixelAt fb px py ^^ (decide (px % 64 = x % 64) && decide (py % 32 = y % 32))) := by
  unfold pixelAt xorPixel
  rw [Vector.getElem_set]
  by_cases hy : py % 32 = y % 32
  · simp only [hy, if_true, BitVec.getLsbD_xor, BitVec.getLsbD_twoPow, decide_true, Bool.and_true]
    congr 1
    simp [eq_comm, Nat.mod_lt]
  · rw [if_neg (fun h => hy h.symm)]
    simp [hy]

/-- Framebuffers with the same cells are equal. -/
theorem fb_eq_of_pixels (f g : Framebuffer) (h : ∀ px py, px < 64 → py < 32 → pixelAt f px py = pixelAt g px py) :
    f = g := by
  apply Vector.ext
  intro y hy
  apply BitVec.eq_of_getLsbD_eq
  intro x hx
  have hy' : y % 32 = y := Nat.mod_eq_of_lt hy
  have hx' : x % 64 = x := Nat.mod_eq_of_lt hx
  simpa [pixelAt, hy', hx'] using h x y hx hy

end Sys2Proof.Machine
end

