-- ==== Sys2Proof/Laws/Encoding.lean ====
section
/-! SUPPORT. The fields of a word as numbers, the words of the formats of 30_encoding.md R91 as numbers, and that
the fields of a format are the operands it was built from. -/

namespace Sys2Proof

theorem fieldOp_toNat (w : Word) : (fieldOp w).toNat = w.toNat / 0x1000 := by
  rw [fieldOp, BitVec.extractLsb'_toNat, Nat.shiftRight_eq_div_pow]; omega

theorem fieldX_val (w : Word) : (fieldX w).val = w.toNat / 0x100 % 0x10 := by
  rw [fieldX, BitVec.val_toFin, BitVec.extractLsb'_toNat, Nat.shiftRight_eq_div_pow]

theorem fieldY_val (w : Word) : (fieldY w).val = w.toNat / 0x10 % 0x10 := by
  rw [fieldY, BitVec.val_toFin, BitVec.extractLsb'_toNat, Nat.shiftRight_eq_div_pow]

theorem fieldN_toNat (w : Word) : (fieldN w).toNat = w.toNat % 0x10 := by
  rw [fieldN, BitVec.extractLsb'_toNat]; rfl

theorem fieldKk_toNat (w : Word) : (fieldKk w).toNat = w.toNat % 0x100 := by
  rw [fieldKk, BitVec.extractLsb'_toNat]; rfl

theorem fieldNnn_toNat (w : Word) : (fieldNnn w).toNat = w.toNat % 0x1000 := by
  rw [fieldNnn, BitVec.extractLsb'_toNat]; rfl

theorem formNnn_toNat (op : Nibble) (nnn : Addr12) :
    (formNnn op nnn).toNat = 0x1000 * op.toNat + nnn.toNat := by
  rw [formNnn, BitVec.toNat_ofNat]; omega

theorem formXkk_toNat (op : Nibble) (x : Reg) (kk : Byte) :
    (formXkk op x kk).toNat = 0x1000 * op.toNat + 0x100 * x.val + kk.toNat := by
  rw [formXkk, BitVec.toNat_ofNat]; omega

theorem formXyn_toNat (op : Nibble) (x y : Reg) (n : Nibble) :
    (formXyn op x y n).toNat = 0x1000 * op.toNat + 0x100 * x.val + 0x10 * y.val + n.toNat := by
  rw [formXyn, BitVec.toNat_ofNat]; omega

@[simp] theorem fieldOp_formNnn (op : Nibble) (nnn : Addr12) : fieldOp (formNnn op nnn) = op :=
  BitVec.eq_of_toNat_eq (by rw [fieldOp_toNat, formNnn_toNat]; omega)

@[simp] theorem fieldNnn_formNnn (op : Nibble) (nnn : Addr12) : fieldNnn (formNnn op nnn) = nnn :=
  BitVec.eq_of_toNat_eq (by rw [fieldNnn_toNat, formNnn_toNat]; omega)

@[simp] theorem fieldOp_formXkk (op : Nibble) (x : Reg) (kk : Byte) : fieldOp (formXkk op x kk) = op :=
  BitVec.eq_of_toNat_eq (by rw [fieldOp_toNat, formXkk_toNat]; omega)

@[simp] theorem fieldX_formXkk (op : Nibble) (x : Reg) (kk : Byte) : fieldX (formXkk op x kk) = x :=
  Fin.ext (by rw [fieldX_val, formXkk_toNat]; omega)

@[simp] theorem fieldKk_formXkk (op : Nibble) (x : Reg) (kk : Byte) : fieldKk (formXkk op x kk) = kk :=
  BitVec.eq_of_toNat_eq (by rw [fieldKk_toNat, formXkk_toNat]; omega)

@[simp] theorem fieldOp_formXyn (op : Nibble) (x y : Reg) (n : Nibble) : fieldOp (formXyn op x y n) = op :=
  BitVec.eq_of_toNat_eq (by rw [fieldOp_toNat, formXyn_toNat]; omega)

@[simp] theorem fieldX_formXyn (op : Nibble) (x y : Reg) (n : Nibble) : fieldX (formXyn op x y n) = x :=
  Fin.ext (by rw [fieldX_val, formXyn_toNat]; omega)

@[simp] theorem fieldY_formXyn (op : Nibble) (x y : Reg) (n : Nibble) : fieldY (formXyn op x y n) = y :=
  Fin.ext (by rw [fieldY_val, formXyn_toNat]; omega)

@[simp] theorem fieldN_formXyn (op : Nibble) (x y : Reg) (n : Nibble) : fieldN (formXyn op x y n) = n :=
  BitVec.eq_of_toNat_eq (by rw [fieldN_toNat, formXyn_toNat]; omega)

/-- A word is the format `NNN` of its fields. -/
theorem formNnn_fields (w : Word) : formNnn (fieldOp w) (fieldNnn w) = w :=
  BitVec.eq_of_toNat_eq (by rw [formNnn_toNat, fieldOp_toNat, fieldNnn_toNat]; omega)

/-- A word is the format `XKK` of its fields. -/
theorem formXkk_fields (w : Word) : formXkk (fieldOp w) (fieldX w) (fieldKk w) = w :=
  BitVec.eq_of_toNat_eq (by rw [formXkk_toNat, fieldOp_toNat, fieldX_val, fieldKk_toNat]; omega)

/-- A word is the format `XYN` of its fields. -/
theorem formXyn_fields (w : Word) : formXyn (fieldOp w) (fieldX w) (fieldY w) (fieldN w) = w :=
  BitVec.eq_of_toNat_eq
    (by rw [formXyn_toNat, fieldOp_toNat, fieldX_val, fieldY_val, fieldN_toNat]; omega)

/-- The word of two bytes as a number, the high byte first (20_memory.md R67). -/
theorem wordOfBytes_toNat (high low : Byte) :
    (wordOfBytes high low).toNat = 0x100 * high.toNat + low.toNat := by
  rw [wordOfBytes, BitVec.toNat_append, ← Nat.shiftLeft_add_eq_or_of_lt low.isLt, Nat.shiftLeft_eq]
  omega

/-- The bytes of a word, put together in memory order, are the word (20_memory.md R67). -/
theorem wordOfBytes_bytesOfWord (w : Word) :
    wordOfBytes (w.extractLsb' 8 8) (w.extractLsb' 0 8) = w := by
  apply BitVec.eq_of_toNat_eq
  rw [wordOfBytes_toNat, BitVec.extractLsb'_toNat, BitVec.extractLsb'_toNat,
    Nat.shiftRight_eq_div_pow, Nat.shiftRight_eq_div_pow]
  omega

/-! ## The masks of the opcode map (30_encoding.md R94) -/

/-- Disjoint numbers: or is addition. -/
theorem or_eq_add (a b : Nat) (h : b < 0x1000) : a * 0x1000 ||| b = a * 0x1000 + b := by
  rw [← Nat.shiftLeft_eq a 12, ← Nat.shiftLeft_add_eq_or_of_lt h]

theorem and_low (n k : Nat) : n &&& (2 ^ k - 1) = n % 2 ^ k := Nat.and_two_pow_sub_one_eq_mod n k

theorem and_top (n : Nat) (h : n < 0x10000) : n &&& 0xF000 = n / 0x1000 * 0x1000 := by
  apply Nat.eq_of_testBit_eq
  intro k
  rw [Nat.testBit_and, show (0xF000 : Nat) = 0xF * 2 ^ 12 by rfl, show (0x1000 : Nat) = 2 ^ 12 by rfl,
    Nat.testBit_mul_two_pow, Nat.testBit_mul_two_pow, Nat.testBit_div_two_pow]
  by_cases hk : 12 ≤ k
  · rw [show k - 12 + 12 = k by omega, show (0xF : Nat) = 2 ^ 4 - 1 by rfl, Nat.testBit_two_pow_sub_one]
    by_cases h16 : k < 16
    · simp [hk, show k - 12 < 4 by omega]
    · have : n.testBit k = false :=
        Nat.testBit_lt_two_pow (Nat.lt_of_lt_of_le h (Nat.pow_le_pow_right (n := 2) (by decide) (by omega : 16 ≤ k)))
      simp [this]
  · simp [hk]

/-- The mask of the plain families keeps the top nibble. -/
theorem mask_top (w : Word) : (w &&& 0xF000).toNat = w.toNat / 0x1000 * 0x1000 := by
  rw [BitVec.toNat_and]; exact and_top w.toNat w.isLt

/-- The mask of family 8 keeps the top nibble and the lowest. -/
theorem mask_ends (w : Word) : (w &&& 0xF00F).toNat = w.toNat / 0x1000 * 0x1000 + w.toNat % 0x10 := by
  rw [BitVec.toNat_and]
  show w.toNat &&& (0xF000 ||| (2 ^ 4 - 1)) = _
  rw [Nat.and_or_distrib_left, and_low, and_top w.toNat w.isLt, or_eq_add _ _ (by omega)]
  rfl

/-- The mask of the families E and F keeps the top nibble and the low byte. -/
theorem mask_byte (w : Word) : (w &&& 0xF0FF).toNat = w.toNat / 0x1000 * 0x1000 + w.toNat % 0x100 := by
  rw [BitVec.toNat_and]
  show w.toNat &&& (0xF000 ||| (2 ^ 8 - 1)) = _
  rw [Nat.and_or_distrib_left, and_low, and_top w.toNat w.isLt, or_eq_add _ _ (by omega)]
  rfl

/-! ## What a row selects, field by field -/

theorem selects_top (m : String) (v w : Word) : OpcodeRow.selects ⟨m, 0xF000, v⟩ w =
    (decide ((fieldOp w).toNat = v.toNat / 0x1000) && decide (v.toNat % 0x1000 = 0)) := by
  rw [Bool.eq_iff_iff]
  simp only [OpcodeRow.selects, beq_iff_eq, ← BitVec.toNat_inj, mask_top, Bool.and_eq_true,
    decide_eq_true_eq, fieldOp_toNat]
  omega

theorem selects_ends (m : String) (v w : Word) : OpcodeRow.selects ⟨m, 0xF00F, v⟩ w =
    (decide ((fieldOp w).toNat = v.toNat / 0x1000) && decide ((fieldN w).toNat = v.toNat % 0x10) &&
      decide (v.toNat / 0x10 % 0x100 = 0)) := by
  rw [Bool.eq_iff_iff]
  simp only [OpcodeRow.selects, beq_iff_eq, ← BitVec.toNat_inj, mask_ends, Bool.and_eq_true,
    decide_eq_true_eq, fieldOp_toNat, fieldN_toNat]
  omega

theorem selects_byte (m : String) (v w : Word) : OpcodeRow.selects ⟨m, 0xF0FF, v⟩ w =
    (decide ((fieldOp w).toNat = v.toNat / 0x1000) && decide ((fieldKk w).toNat = v.toNat % 0x100) &&
      decide (v.toNat / 0x100 % 0x10 = 0)) := by
  rw [Bool.eq_iff_iff]
  simp only [OpcodeRow.selects, beq_iff_eq, ← BitVec.toNat_inj, mask_byte, Bool.and_eq_true,
    decide_eq_true_eq, fieldOp_toNat, fieldKk_toNat]
  omega

theorem selects_all (m : String) (v w : Word) : OpcodeRow.selects ⟨m, 0xFFFF, v⟩ w =
    (decide ((fieldOp w).toNat = v.toNat / 0x1000) &&
      decide ((fieldNnn w).toNat = v.toNat % 0x1000)) := by
  have h : w &&& (0xFFFF : Word) = w := BitVec.and_allOnes
  rw [Bool.eq_iff_iff]
  simp only [OpcodeRow.selects, beq_iff_eq, h, ← BitVec.toNat_inj, Bool.and_eq_true,
    decide_eq_true_eq, fieldOp_toNat, fieldNnn_toNat]
  omega

end Sys2Proof
end

