-- ==== Sys2Proof/Laws/PerInstr.lean ====
section
/-! SUPPORT. Per instruction: the word of an instruction is selected by the row of the opcode map (30_encoding.md
R94) that bears its name. One lemma per constructor. -/

namespace Sys2Proof.Laws.EncodesItsRow

/-- Some row of the opcode map with the instruction's name selects the instruction's word. -/
def Statement (i : Instr) : Prop :=
  ∃ row ∈ opcodeMap, row.mnemonic = i.mnemonic ∧ row.selects (encode i) = true

/-- A row selects a word if the masked numbers agree. -/
theorem selects_of (row : OpcodeRow) (w : Word) (h : (w &&& row.mask).toNat = row.value.toNat) :
    row.selects w = true := by
  rw [OpcodeRow.selects, beq_iff_eq]; exact BitVec.eq_of_toNat_eq h

theorem cls : Statement .cls :=
  ⟨⟨"CLS", 0xFFFF, 0x00E0⟩, by decide, rfl, by decide⟩

theorem ret : Statement .ret :=
  ⟨⟨"RET", 0xFFFF, 0x00EE⟩, by decide, rfl, by decide⟩

theorem jp (a : Addr12) : Statement (.jp a) :=
  ⟨⟨"JP", 0xF000, 0x1000⟩, by decide, rfl, selects_of _ _ (by
    rw [encode, mask_top, formNnn_toNat]; simp only [BitVec.reduceToNat]; omega)⟩

theorem call (a : Addr12) : Statement (.call a) :=
  ⟨⟨"CALL", 0xF000, 0x2000⟩, by decide, rfl, selects_of _ _ (by
    rw [encode, mask_top, formNnn_toNat]; simp only [BitVec.reduceToNat]; omega)⟩

theorem seImm (a : Reg) (b : Byte) : Statement (.seImm a b) :=
  ⟨⟨"SE_IMM", 0xF000, 0x3000⟩, by decide, rfl, selects_of _ _ (by
    rw [encode, mask_top, formXkk_toNat]; simp only [BitVec.reduceToNat]; omega)⟩

theorem sneImm (a : Reg) (b : Byte) : Statement (.sneImm a b) :=
  ⟨⟨"SNE_IMM", 0xF000, 0x4000⟩, by decide, rfl, selects_of _ _ (by
    rw [encode, mask_top, formXkk_toNat]; simp only [BitVec.reduceToNat]; omega)⟩

theorem seReg (a b : Reg) (d : Nibble) : Statement (.seReg a b d) :=
  ⟨⟨"SE_REG", 0xF000, 0x5000⟩, by decide, rfl, selects_of _ _ (by
    rw [encode, mask_top, formXyn_toNat]; simp only [BitVec.reduceToNat]; omega)⟩

theorem ldImm (a : Reg) (b : Byte) : Statement (.ldImm a b) :=
  ⟨⟨"LD_IMM", 0xF000, 0x6000⟩, by decide, rfl, selects_of _ _ (by
    rw [encode, mask_top, formXkk_toNat]; simp only [BitVec.reduceToNat]; omega)⟩

theorem addImm (a : Reg) (b : Byte) : Statement (.addImm a b) :=
  ⟨⟨"ADD_IMM", 0xF000, 0x7000⟩, by decide, rfl, selects_of _ _ (by
    rw [encode, mask_top, formXkk_toNat]; simp only [BitVec.reduceToNat]; omega)⟩

theorem mov (a b : Reg) : Statement (.mov a b) :=
  ⟨⟨"MOV", 0xF00F, 0x8000⟩, by decide, rfl, selects_of _ _ (by
    rw [encode, mask_ends, formXyn_toNat]; simp only [BitVec.reduceToNat]; omega)⟩

theorem or (a b : Reg) : Statement (.or a b) :=
  ⟨⟨"OR", 0xF00F, 0x8001⟩, by decide, rfl, selects_of _ _ (by
    rw [encode, mask_ends, formXyn_toNat]; simp only [BitVec.reduceToNat]; omega)⟩

theorem and (a b : Reg) : Statement (.and a b) :=
  ⟨⟨"AND", 0xF00F, 0x8002⟩, by decide, rfl, selects_of _ _ (by
    rw [encode, mask_ends, formXyn_toNat]; simp only [BitVec.reduceToNat]; omega)⟩

theorem xor (a b : Reg) : Statement (.xor a b) :=
  ⟨⟨"XOR", 0xF00F, 0x8003⟩, by decide, rfl, selects_of _ _ (by
    rw [encode, mask_ends, formXyn_toNat]; simp only [BitVec.reduceToNat]; omega)⟩

theorem add (a b : Reg) : Statement (.add a b) :=
  ⟨⟨"ADD", 0xF00F, 0x8004⟩, by decide, rfl, selects_of _ _ (by
    rw [encode, mask_ends, formXyn_toNat]; simp only [BitVec.reduceToNat]; omega)⟩

theorem sub (a b : Reg) : Statement (.sub a b) :=
  ⟨⟨"SUB", 0xF00F, 0x8005⟩, by decide, rfl, selects_of _ _ (by
    rw [encode, mask_ends, formXyn_toNat]; simp only [BitVec.reduceToNat]; omega)⟩

theorem shr (a b : Reg) : Statement (.shr a b) :=
  ⟨⟨"SHR", 0xF00F, 0x8006⟩, by decide, rfl, selects_of _ _ (by
    rw [encode, mask_ends, formXyn_toNat]; simp only [BitVec.reduceToNat]; omega)⟩

theorem subn (a b : Reg) : Statement (.subn a b) :=
  ⟨⟨"SUBN", 0xF00F, 0x8007⟩, by decide, rfl, selects_of _ _ (by
    rw [encode, mask_ends, formXyn_toNat]; simp only [BitVec.reduceToNat]; omega)⟩

theorem shl (a b : Reg) : Statement (.shl a b) :=
  ⟨⟨"SHL", 0xF00F, 0x800E⟩, by decide, rfl, selects_of _ _ (by
    rw [encode, mask_ends, formXyn_toNat]; simp only [BitVec.reduceToNat]; omega)⟩

theorem sneReg (a b : Reg) (d : Nibble) : Statement (.sneReg a b d) :=
  ⟨⟨"SNE_REG", 0xF000, 0x9000⟩, by decide, rfl, selects_of _ _ (by
    rw [encode, mask_top, formXyn_toNat]; simp only [BitVec.reduceToNat]; omega)⟩

theorem ldI (a : Addr12) : Statement (.ldI a) :=
  ⟨⟨"LD_I", 0xF000, 0xA000⟩, by decide, rfl, selects_of _ _ (by
    rw [encode, mask_top, formNnn_toNat]; simp only [BitVec.reduceToNat]; omega)⟩

theorem jpV0 (a : Addr12) : Statement (.jpV0 a) :=
  ⟨⟨"JP_V0", 0xF000, 0xB000⟩, by decide, rfl, selects_of _ _ (by
    rw [encode, mask_top, formNnn_toNat]; simp only [BitVec.reduceToNat]; omega)⟩

theorem rnd (a : Reg) (b : Byte) : Statement (.rnd a b) :=
  ⟨⟨"RND", 0xF000, 0xC000⟩, by decide, rfl, selects_of _ _ (by
    rw [encode, mask_top, formXkk_toNat]; simp only [BitVec.reduceToNat]; omega)⟩

theorem drw (a b : Reg) (d : Nibble) : Statement (.drw a b d) :=
  ⟨⟨"DRW", 0xF000, 0xD000⟩, by decide, rfl, selects_of _ _ (by
    rw [encode, mask_top, formXyn_toNat]; simp only [BitVec.reduceToNat]; omega)⟩

theorem skp (a : Reg) : Statement (.skp a) :=
  ⟨⟨"SKP", 0xF0FF, 0xE09E⟩, by decide, rfl, selects_of _ _ (by
    rw [encode, mask_byte, formXkk_toNat]; simp only [BitVec.reduceToNat]; omega)⟩

theorem sknp (a : Reg) : Statement (.sknp a) :=
  ⟨⟨"SKNP", 0xF0FF, 0xE0A1⟩, by decide, rfl, selects_of _ _ (by
    rw [encode, mask_byte, formXkk_toNat]; simp only [BitVec.reduceToNat]; omega)⟩

theorem ldVxDt (a : Reg) : Statement (.ldVxDt a) :=
  ⟨⟨"LD_VX_DT", 0xF0FF, 0xF007⟩, by decide, rfl, selects_of _ _ (by
    rw [encode, mask_byte, formXkk_toNat]; simp only [BitVec.reduceToNat]; omega)⟩

theorem ldVxK (a : Reg) : Statement (.ldVxK a) :=
  ⟨⟨"LD_VX_K", 0xF0FF, 0xF00A⟩, by decide, rfl, selects_of _ _ (by
    rw [encode, mask_byte, formXkk_toNat]; simp only [BitVec.reduceToNat]; omega)⟩

theorem ldDtVx (a : Reg) : Statement (.ldDtVx a) :=
  ⟨⟨"LD_DT_VX", 0xF0FF, 0xF015⟩, by decide, rfl, selects_of _ _ (by
    rw [encode, mask_byte, formXkk_toNat]; simp only [BitVec.reduceToNat]; omega)⟩

theorem ldStVx (a : Reg) : Statement (.ldStVx a) :=
  ⟨⟨"LD_ST_VX", 0xF0FF, 0xF018⟩, by decide, rfl, selects_of _ _ (by
    rw [encode, mask_byte, formXkk_toNat]; simp only [BitVec.reduceToNat]; omega)⟩

theorem addI (a : Reg) : Statement (.addI a) :=
  ⟨⟨"ADD_I", 0xF0FF, 0xF01E⟩, by decide, rfl, selects_of _ _ (by
    rw [encode, mask_byte, formXkk_toNat]; simp only [BitVec.reduceToNat]; omega)⟩

theorem ldF (a : Reg) : Statement (.ldF a) :=
  ⟨⟨"LD_F", 0xF0FF, 0xF029⟩, by decide, rfl, selects_of _ _ (by
    rw [encode, mask_byte, formXkk_toNat]; simp only [BitVec.reduceToNat]; omega)⟩

theorem ldB (a : Reg) : Statement (.ldB a) :=
  ⟨⟨"LD_B", 0xF0FF, 0xF033⟩, by decide, rfl, selects_of _ _ (by
    rw [encode, mask_byte, formXkk_toNat]; simp only [BitVec.reduceToNat]; omega)⟩

theorem stRegs (a : Reg) : Statement (.stRegs a) :=
  ⟨⟨"ST_REGS", 0xF0FF, 0xF055⟩, by decide, rfl, selects_of _ _ (by
    rw [encode, mask_byte, formXkk_toNat]; simp only [BitVec.reduceToNat]; omega)⟩

theorem ldRegs (a : Reg) : Statement (.ldRegs a) :=
  ⟨⟨"LD_REGS", 0xF0FF, 0xF065⟩, by decide, rfl, selects_of _ _ (by
    rw [encode, mask_byte, formXkk_toNat]; simp only [BitVec.reduceToNat]; omega)⟩

end Sys2Proof.Laws.EncodesItsRow
end

