-- ==== Sys2Proof/Laws/Step.lean ====
section
/-! SUPPORT. What a step can do, said once, and that every meaning answers a next state. -/

namespace Sys2Proof.Machine

/-- A checked block answers a next state if its body does. -/
theorem withBlock_answers (count : Nat) (s : State) (body : Result) (h : ∃ t, body = .next t) :
    ∃ t, withBlock count s body = .next t := by
  rcases withBlock_cases count s body with ⟨-, he⟩ | ⟨-, -, he⟩
  · rwa [he]
  · exact ⟨_, he⟩

/-- Every instruction, in every state, has a next state: no meaning ends in a fault or a refusal. -/
theorem exec_answers (i : Instr) (s : State) : ∃ t, exec i s = .next t := by
  cases i with
  | ret => simp only [exec, execRet]; split <;> exact ⟨_, rfl⟩
  | call nnn => simp only [exec, execCall]; split <;> exact ⟨_, rfl⟩
  | ldVxK x => simp only [exec, execLdVxK]; split <;> exact ⟨_, rfl⟩
  | drw x y n => exact withBlock_answers _ s _ ⟨_, rfl⟩
  | ldB x => exact withBlock_answers _ s _ ⟨_, rfl⟩
  | stRegs x => exact withBlock_answers _ s _ ⟨_, rfl⟩
  | ldRegs x => exact withBlock_answers _ s _ ⟨_, rfl⟩
  | _ => exact ⟨_, rfl⟩

/-- All that an instruction can answer: it completes with `status` as before, or waits for a key with
nothing changed, or halts with nothing changed but `status`. -/
theorem exec_cases (i : Instr) (s t : State) (h : exec i s = .next t) :
    (t.status = s.status ∧ ∃ r, t.port = { s.port with out := some ⟨.ok, r⟩ } ∧
      (r = true ↔ (i = .cls ∨ ∃ x y n, i = .drw x y n))) ∨
    (t = s.setOut .waiting false ∧ ∃ x, i = .ldVxK x) ∨
    (∃ cause info, t = (s.setStatus (.halted cause info)).setOut (.fatal cause info) false) := by
  cases i with
  | ret =>
    simp only [exec, execRet] at h
    split at h <;> cases h
    · exact .inr (.inr ⟨_, _, rfl⟩)
    · simp
  | call nnn =>
    simp only [exec, execCall] at h
    split at h <;> cases h
    · simp
    · exact .inr (.inr ⟨_, _, rfl⟩)
  | ldVxK x => simp only [exec, execLdVxK] at h; split at h <;> cases h <;> simp
  | drw x y n =>
    rcases withBlock_next h with h | ⟨-, -, rfl⟩
    · cases h; simp
    · exact .inr (.inr ⟨_, _, rfl⟩)
  | ldB x =>
    rcases withBlock_next h with h | ⟨-, -, rfl⟩
    · cases h; simp
    · exact .inr (.inr ⟨_, _, rfl⟩)
  | stRegs x =>
    rcases withBlock_next h with h | ⟨-, -, rfl⟩
    · cases h; simp
    · exact .inr (.inr ⟨_, _, rfl⟩)
  | ldRegs x =>
    rcases withBlock_next h with h | ⟨-, -, rfl⟩
    · cases h; simp
    · exact .inr (.inr ⟨_, _, rfl⟩)
  | _ => cases h; simp [State.setFlagged]

theorem pcInRange_iff (pc : Word) : pcInRange pc = true ↔ 0x200 ≤ pc.toNat ∧ pc.toNat ≤ 0xFFE := by
  rw [pcInRange, Bool.and_eq_true, decide_eq_true_iff, decide_eq_true_iff]
  rfl

/-- A step of a halted core. -/
theorem step_halted (s : State) (cause : Cause) (info : Word) (h : s.status = .halted cause info) :
    step s = .next (endTick (s.setOut (.halted cause info) false)) := by
  simp [step, tick, tickBody, h, finishTick]

/-- A step whose `pc` is out of range. -/
theorem step_outOfRange (s : State) (h : s.status = .running) (hp : pcInRange s.pc = false) :
    step s = .next (endTick
      ((s.setStatus (.halted .pcOutOfRange s.pc)).setOut (.fatal .pcOutOfRange s.pc) false)) := by
  simp [step, tick, tickBody, h, fetchDecodeExecute, hp, finishTick]

/-- A step whose word is no instruction. -/
theorem step_decodeFailure (s : State) (e : DecodeError) (h : s.status = .running)
    (hp : pcInRange s.pc = true) (hd : decode s.fetchWord = .error e) :
    step s = .next (endTick ((s.setPc (s.pc + 2)).setOut (.decodeFailure s.fetchWord) false)) := by
  simp [step, tick, tickBody, h, fetchDecodeExecute, hp, hd, finishTick]

/-- A step that executes an instruction. -/
theorem step_executes (s u : State) (i : Instr) (h : s.status = .running) (hp : pcInRange s.pc = true)
    (hd : decode s.fetchWord = .ok i) (hu : exec i s = .next u) : step s = .next (endTick u) := by
  simp [step, tick, tickBody, h, fetchDecodeExecute, hp, hd, hu, finishTick]

/-- The same, said with `Fetches`. -/
theorem step_of_fetches {s u : State} {i : Instr} (h : Fetches s i) (hu : exec i s = .next u) :
    step s = .next (endTick u) :=
  step_executes s u i h.running ((pcInRange_iff _).2 ⟨h.low, h.high⟩) h.decodes hu

/-- All that a step can do: it answers a next state in one of four ways. -/
theorem step_cases (s : State) :
    (∃ cause info, s.status = .halted cause info ∧
      step s = .next (endTick (s.setOut (.halted cause info) false))) ∨
    (s.status = .running ∧ pcInRange s.pc = false ∧
      step s = .next (endTick
        ((s.setStatus (.halted .pcOutOfRange s.pc)).setOut (.fatal .pcOutOfRange s.pc) false))) ∨
    (∃ e, s.status = .running ∧ pcInRange s.pc = true ∧ decode s.fetchWord = .error e ∧
      step s = .next (endTick ((s.setPc (s.pc + 2)).setOut (.decodeFailure s.fetchWord) false))) ∨
    (∃ i u, s.status = .running ∧ pcInRange s.pc = true ∧ decode s.fetchWord = .ok i ∧
      exec i s = .next u ∧ step s = .next (endTick u)) := by
  cases hs : s.status with
  | halted cause info => exact .inl ⟨cause, info, rfl, step_halted s cause info hs⟩
  | running =>
    cases hp : pcInRange s.pc with
    | false => exact .inr (.inl ⟨rfl, rfl, step_outOfRange s hs hp⟩)
    | true =>
      cases hd : decode s.fetchWord with
      | error e => exact .inr (.inr (.inl ⟨e, rfl, rfl, rfl, step_decodeFailure s e hs hp hd⟩))
      | ok i =>
        obtain ⟨u, hu⟩ := exec_answers i s
        exact .inr (.inr (.inr ⟨i, u, rfl, rfl, rfl, hu, step_executes s u i hs hp hd hu⟩))

end Sys2Proof.Machine
end

