-- ==== Sys2Proof/Tests/Slice0.lean ====
section
/-! SUPPORT. Tests. Expected results come from spec/95_test_vectors.md (the vector is named in brackets) or are
worked out by hand from the rule that is named; words are written out from the patterns of
30_encoding.md R94. Then, for each statement with hypotheses, states that meet them. -/

namespace Sys2Proof.Machine.Tests

/-! ## WellFormed refuses what the assembler syntax does not emit (30_encoding.md R99) -/

theorem test_illFormed_seReg : (Instr.seReg 3 4 7).wellFormed = false := by decide
theorem test_illFormed_sneReg : (Instr.sneReg 3 5 15).wellFormed = false := by decide
theorem test_illFormed_shr : (Instr.shr 1 2).wellFormed = false := by decide
theorem test_illFormed_shl : (Instr.shl 1 2).wellFormed = false := by decide
theorem test_wellFormed_canonical :
    (Instr.seReg 3 4 0).wellFormed && (Instr.sneReg 3 5 0).wellFormed && (Instr.shr 1 0).wellFormed &&
      (Instr.shl 1 0).wellFormed = true := by decide

/-! ## Decoding, one word of every row (30_encoding.md R94) -/

theorem test_decode_flow :
    decode 0x00E0 = .ok .cls ∧ decode 0x00EE = .ok .ret ∧ decode 0x1ABC = .ok (.jp 0xABC) ∧
    decode 0x2ABD = .ok (.call 0xABD) ∧ decode 0x3342 = .ok (.seImm 3 0x42) ∧
    decode 0x4E43 = .ok (.sneImm 14 0x43) ∧ decode 0x5347 = .ok (.seReg 3 4 7) ∧
    decode 0x935F = .ok (.sneReg 3 5 15) ∧ decode 0xB210 = .ok (.jpV0 0x210) := by decide

theorem test_decode_alu :
    decode 0x61AB = .ok (.ldImm 1 0xAB) ∧ decode 0x7AFF = .ok (.addImm 10 0xFF) ∧
    decode 0x8120 = .ok (.mov 1 2) ∧ decode 0x8121 = .ok (.or 1 2) ∧ decode 0x8122 = .ok (.and 1 2) ∧
    decode 0x8123 = .ok (.xor 1 2) ∧ decode 0x8F14 = .ok (.add 15 1) ∧ decode 0x81F5 = .ok (.sub 1 15) ∧
    decode 0x8126 = .ok (.shr 1 2) ∧ decode 0x8127 = .ok (.subn 1 2) ∧ decode 0x812E = .ok (.shl 1 2) ∧
    decode 0xC30F = .ok (.rnd 3 0x0F) := by decide

theorem test_decode_rest :
    decode 0xA123 = .ok (.ldI 0x123) ∧ decode 0xD015 = .ok (.drw 0 1 5) ∧ decode 0xE29E = .ok (.skp 2) ∧
    decode 0xE2A1 = .ok (.sknp 2) ∧ decode 0xF107 = .ok (.ldVxDt 1) ∧ decode 0xF40A = .ok (.ldVxK 4) ∧
    decode 0xF015 = .ok (.ldDtVx 0) ∧ decode 0xF518 = .ok (.ldStVx 5) ∧ decode 0xF01E = .ok (.addI 0) ∧
    decode 0xFA29 = .ok (.ldF 10) ∧ decode 0xF033 = .ok (.ldB 0) ∧ decode 0xF155 = .ok (.stRegs 1) ∧
    decode 0xF265 = .ok (.ldRegs 2) := by decide

/-- [E3, E4, E6, E7] -/
theorem test_decode_failures :
    ([0x0000, 0x00E1, 0x01E0, 0x0FFF, 0x8008, 0x800F, 0x8129, 0x8FFD, 0xE09D, 0xE0A0, 0xE000, 0xF000,
      0xF11F, 0xF056, 0xF0FF] : List Word).all (fun w => (decode w).toOption.isNone) = true := by decide

theorem test_decode_bytes :
    decodeBytes [0x12, 0x03, 0x61] = .ok (.jp 0x203, [0x61]) ∧ decodeBytes [0x12] = .error .truncated := by
  decide

theorem test_decodeTableWord :
    decodeTableWord 16 0x812E = some (.shl 1 2) ∧ decodeTableWord 16 0x8129 = none := by decide

/-! ## One tick each -/

/-- Reset with these registers set. -/
def regs (rs : List (Reg × Byte)) : State := rs.foldl (fun s p => s.setReg p.1 p.2) State.reset

/-- What a tick on the word at `pc` leaves, as `view` sees it. -/
def after {α : Type} (w : Nat) (s : State) (view : State → α) : Option α :=
  match step (s.withFetchWord 16 w) with
  | .next t => some (view t)
  | _ => none

/-- The outcome of the last tick. -/
def outcome (s : State) : Option TickOutcome := s.port.out.map TickOut.outcome

/-- [F3] -/
theorem test_call : after 0x2ABC State.reset (fun t => (t.pc, t.sp.val, t.stk[0])) =
    some (0xABC, 1, 0x202) := by decide

/-- [X3] The seventeenth CALL. -/
theorem test_call_full : after 0x2200 { State.reset with sp := 16 } (fun t => (t.pc, outcome t)) =
    some (0x200, some (.fatal .stackOverflow 0x200)) := by decide

/-- [F19] -/
theorem test_ret : after 0x00EE (State.reset.push 0x345 (by decide)) (fun t => (t.pc, t.sp.val, t.stk[0])) =
    some (0x345, 0, 0x345) := by decide

/-- [X1] -/
theorem test_ret_empty : after 0x00EE State.reset (fun t => (t.pc, t.status)) =
    some (0x200, .halted .stackUnderflow 0x200) := by decide

/-- [F1] -/
theorem test_jp : after 0x1ABC State.reset State.pc = some 0xABC := by decide

/-- [F18] -/
theorem test_jpV0 : after 0xBFFF (regs [(0, 0xFF)]) State.pc = some 0x10FE := by decide

/-- [F4, F5] -/
theorem test_seImm : after 0x3342 (regs [(3, 0x42)]) State.pc = some 0x204 ∧
    after 0x3343 (regs [(3, 0x42)]) State.pc = some 0x202 := by decide

/-- [F6, F7] -/
theorem test_sneImm : after 0x4342 (regs [(3, 0x42)]) State.pc = some 0x202 ∧
    after 0x4343 (regs [(3, 0x42)]) State.pc = some 0x204 := by decide

/-- [F12, F9] -/
theorem test_seReg : after 0x5347 (regs [(3, 7), (4, 7)]) State.pc = some 0x204 ∧
    after 0x5350 (regs [(3, 7), (5, 8)]) State.pc = some 0x202 := by decide

/-- [F10, F13] -/
theorem test_sneReg : after 0x9340 (regs [(3, 7), (4, 7)]) State.pc = some 0x202 ∧
    after 0x935F (regs [(3, 7), (5, 8)]) State.pc = some 0x204 := by decide

/-- [A1] -/
theorem test_ldImm : after 0x61AB (regs [(15, 1)]) (fun t => (t.reg 1, t.reg 15)) = some (0xAB, 1) := by
  decide

/-- [A3] -/
theorem test_addImm : after 0x7A01 (regs [(10, 0xFF)]) (fun t => (t.reg 10, t.reg 15)) = some (0, 0) := by
  decide

/-- [A4] -/
theorem test_mov : after 0x8120 (regs [(1, 0x12), (2, 0x34)]) (fun t => (t.reg 1, t.reg 2)) =
    some (0x34, 0x34) := by decide

/-- [A5] -/
theorem test_or : after 0x8121 (regs [(1, 0xF0), (2, 0x0F), (15, 1)]) (fun t => (t.reg 1, t.reg 15)) =
    some (0xFF, 1) := by decide

/-- [A6] -/
theorem test_and : after 0x8122 (regs [(1, 0xF0), (2, 0x3C), (15, 1)]) (fun t => (t.reg 1, t.reg 15)) =
    some (0x30, 1) := by decide

/-- [A7] -/
theorem test_xor : after 0x8123 (regs [(1, 0xFF), (2, 0x0F), (15, 1)]) (fun t => (t.reg 1, t.reg 15)) =
    some (0xF0, 1) := by decide

/-- [A9, A10] -/
theorem test_add :
    after 0x8124 (regs [(1, 0xFF), (2, 0x01)]) (fun t => (t.reg 1, t.reg 15)) = some (0x00, 1) ∧
    after 0x8124 (regs [(1, 0x80), (2, 0x7F)]) (fun t => (t.reg 1, t.reg 15)) = some (0xFF, 0) := by decide

/-- [A28, A31] VF as destination and as operand. -/
theorem test_add_VF : after 0x8F14 (regs [(15, 0xFF), (1, 2)]) (fun t => t.reg 15) = some 1 ∧
    after 0x81F4 (regs [(1, 0xFF), (15, 1)]) (fun t => (t.reg 1, t.reg 15)) = some (0x00, 1) := by decide

/-- [A13, A15] -/
theorem test_sub :
    after 0x8125 (regs [(1, 0x0A), (2, 0x0A)]) (fun t => (t.reg 1, t.reg 15)) = some (0x00, 1) ∧
    after 0x8125 (regs [(1, 0x05), (2, 0x0A)]) (fun t => (t.reg 1, t.reg 15)) = some (0xFB, 0) := by decide

/-- [A19, A20] -/
theorem test_subn :
    after 0x8127 (regs [(1, 0x05), (2, 0x0A)]) (fun t => (t.reg 1, t.reg 15)) = some (0x05, 1) ∧
    after 0x8127 (regs [(1, 0x0A), (2, 0x05)]) (fun t => (t.reg 1, t.reg 15)) = some (0xFB, 0) := by decide

/-- [A16, A30] -/
theorem test_shr :
    after 0x8126 (regs [(1, 0x01), (2, 0xAA)]) (fun t => (t.reg 1, t.reg 15)) = some (0x00, 1) ∧
    after 0x8F16 (regs [(15, 0x03)]) (fun t => t.reg 15) = some 1 := by decide

/-- [A23, A24] -/
theorem test_shl :
    after 0x812E (regs [(1, 0x7F), (2, 0xAA)]) (fun t => (t.reg 1, t.reg 15)) = some (0xFE, 0) ∧
    after 0x812E (regs [(1, 0xC1)]) (fun t => (t.reg 1, t.reg 15)) = some (0x82, 1) := by decide

/-- [A33] -/
theorem test_rnd : after 0xC30F (State.reset.offer ⟨none, 0xA7⟩) (fun t => t.reg 3) = some 0x07 := by decide

/-- [M1] -/
theorem test_ldI : after 0xA123 State.reset State.i = some 0x123 := by decide

/-- [M2] -/
theorem test_addI : after 0xF01E { regs [(0, 1), (15, 1)] with i := 0xFFF } (fun t => (t.i, t.reg 15)) =
    some (0x000, 1) := by decide

/-- [M8] -/
theorem test_ldF : after 0xF029 (regs [(0, 0x1F)]) State.i = some 0x04B := by decide

/-- [X7: the block ends at 0xFFF] -/
theorem test_ldB : after 0xF033 { regs [(0, 0xFF)] with i := 0xFFD }
    (fun t => (readBlock t.mem 0xFFD 3, t.i)) = some ([2, 5, 5], 0xFFD) := by decide

/-- [X8] -/
theorem test_ldB_past : after 0xF033 { regs [(0, 0xFF)] with i := 0xFFE }
    (fun t => (readBlock t.mem 0xFFE 2, t.pc, t.status)) =
    some ([0, 0], 0x200, .halted .memOutOfRange 0x1000) := by decide

/-- [M16] -/
theorem test_stRegs : after 0xF055 { regs [(0, 0x12)] with i := 0x200 } (fun t => readBlock t.mem 0x200 2) =
    some [0x12, 0x55] := by decide

/-- [M12] -/
theorem test_stRegs_past : after 0xFF55 { State.reset with i := 0xFF1 } (fun t => (t.pc, outcome t)) =
    some (0x200, some (.fatal .memOutOfRange 0x1000)) := by decide

/-- [M15] -/
theorem test_ldRegs : after 0xF265 (regs [(3, 9)]) (fun t => (t.reg 0, t.reg 1, t.reg 2, t.reg 3)) =
    some (0xF0, 0x90, 0x90, 9) := by decide

/-- [M13] -/
theorem test_ldRegs_past : after 0xFF65 { State.reset with i := 0xFF1 } (fun t => (t.reg 0, outcome t)) =
    some (0, some (.fatal .memOutOfRange 0x1000)) := by decide

/-- [D1] -/
theorem test_cls : after 0x00E0 { State.reset with fb := xorPixel clearFb 63 31 }
    (fun t => (t.fb, t.df, t.port.out)) = some (clearFb, true, some ⟨.ok, true⟩) := by decide

/-- The lit cells of a row. -/
def lit (fb : Framebuffer) (y : Nat) : List Nat := (List.range 64).filter (pixelAt fb · y)

/-- [D5] Both edges. -/
theorem test_drw_wraps : after 0xD012
    { regs [(0, 60), (1, 31)] with i := 0x300, mem := [(0x300, 0xFF), (0x301, 0x81)] }
    (fun t => (lit t.fb 31, lit t.fb 0, t.reg 15)) =
    some ([0, 1, 2, 3, 60, 61, 62, 63], [3, 60], 0) := by decide

/-- [D6, third tick] One colliding bit out of two. -/
theorem test_drw_collides : after 0xD011
    { regs [] with i := 0x300, mem := [(0x300, 0x18)], fb := #v[0x0F, 0, 0, 0, 0, 0, 0, 0, 0, 0, 0, 0, 0, 0, 0,
        0, 0, 0, 0, 0, 0, 0, 0, 0, 0, 0, 0, 0, 0, 0, 0, 0] }
    (fun t => (lit t.fb 0, t.reg 15)) = some ([0, 1, 2, 4], 1) := by decide

/-- The latch with this key down. -/
def held (k : Key) (s : State) : State := hostKeyDown k s

/-- [K1, K3] -/
theorem test_skp : after 0xE29E (held 5 (regs [(2, 0x15)])) State.pc = some 0x204 ∧
    after 0xE29E (regs [(2, 0x15)]) State.pc = some 0x202 := by decide

/-- [K2, K4] -/
theorem test_sknp : after 0xE2A1 (held 5 (regs [(2, 0x15)])) State.pc = some 0x202 ∧
    after 0xE2A1 (regs [(2, 0x15)]) State.pc = some 0x204 := by decide

/-- [K7] -/
theorem test_ldVxK : after 0xF40A ((State.reset.setDt 9).offer ⟨some 0xB, 0⟩)
    (fun t => (t.reg 4, t.pc, t.dt)) = some (0x0B, 0x202, 8) := by decide

/-- [K8, K6] A key that is held is no event; the timers are frozen. -/
theorem test_ldVxK_waits : after 0xF40A (held 3 ((State.reset.setDt 9).offer ⟨none, 0⟩))
    (fun t => (t.pc, t.dt, outcome t)) = some (0x200, 9, some .waiting) := by decide

/-- [T1] -/
theorem test_ldVxDt : after 0xF107 (State.reset.setDt 2) (fun t => (t.reg 1, t.dt)) = some (2, 1) := by decide

/-- [T2, T3] -/
theorem test_ldDtVx : after 0xF015 (regs [(0, 3)]) State.dt = some 2 ∧
    after 0xF015 (State.reset.setDt 7) State.dt = some 0 := by decide

/-- [T4, T5] -/
theorem test_ldStVx : after 0xF518 (regs [(5, 0x10)]) State.soundValue = some 0x0F ∧
    after 0xF518 (regs [(5, 1)]) State.soundValue = some 0 := by decide

/-! ## The cycle and the ports -/

/-- [X2, first tick] -/
theorem test_decodeFailure : after 0x800F (State.reset.setDt 2) (fun t => (t.pc, t.dt, t.status, outcome t)) =
    some (0x202, 1, .running, some (.decodeFailure 0x800F)) := by decide

/-- [X4, second tick] -/
theorem test_pcOutOfRange : after 0x0000 (State.reset.setPc 0xFFF) (fun t => (t.pc, t.status)) =
    some (0xFFF, .halted .pcOutOfRange 0xFFF) := by decide

/-- [P6, second tick] An odd `pc` is fetched from. -/
theorem test_oddPc : after 0x612A (State.reset.setPc 0x203) (fun t => (t.reg 1, t.pc)) = some (0x2A, 0x205) := by
  decide

/-- [S11, P1] Load and three ticks. -/
theorem test_session :
    (match hostRun [.load [0x63, 0x0A, 0x73, 0x05, 0x00, 0xE0], .tick ⟨none, 0⟩, .tick ⟨none, 0⟩,
        .tick ⟨none, 0⟩] State.reset with
      | .next t => some (t.reg 3, t.pc, t.df, t.fb)
      | _ => none) = some (0x0F, 0x206, true, clearFb) := by decide

/-- [X10] Reset is the way out of a halt, and a program can be loaded again. -/
theorem test_resetAfterHalt :
    (match hostRun [.load [0x00, 0xEE], .tick ⟨none, 0⟩, .reset, .load [0x12, 0x00], .tick ⟨none, 0⟩]
        State.reset with
      | .next t => some (t.pc, t.status, t.mem)
      | _ => none) = some (0x200, .running, [(0x200, 0x12)]) := by decide

/-- 50_interfaces.md R259: a load after the first tick has no meaning. -/
theorem test_lateLoad :
    (match hostRun [.tick ⟨none, 0⟩, .load [0x12]] State.reset with
      | .refused r => some r
      | _ => none) = some .loadNotLegal := by decide

/-- [S9, X11] -/
theorem test_longLoad (bytes : List Byte) (h : bytes.length = 3585) :
    hostLoad bytes State.reset = .refused (.romTooLarge 3585) := by
  simp [hostLoad, State.reset, Port.reset, h, maxImage]

/-- 10_state.md R29: row-major, cell index `64 * y + x`. -/
theorem test_snapshot : (({ State.reset with fb := xorPixel clearFb 3 2 }).snapshot)[131]? = some true := by
  simp only [State.snapshot, List.getElem?_map, List.getElem?_range (show 131 < 2048 by decide)]
  decide

/-! ## Witnesses: each statement's hypotheses are met, every clause at the edges of its range -/

/-- Running, with the word of LD V1, 0xAB at `pc`. -/
def fetching (pc : Word) : State := (State.reset.setPc pc).withFetchWord 16 0x61AB

/-- A fetch at the lowest and at the highest address. -/
theorem witness_fetches : Fetches (fetching 0x200) (.ldImm 1 0xAB) ∧ Fetches (fetching 0xFFE) (.ldImm 1 0xAB) :=
  ⟨⟨by decide, by decide, by decide, by decide⟩, ⟨by decide, by decide, by decide, by decide⟩⟩

theorem witness_EncodeInvertsDecode : decode 0x812E = .ok (.shl 1 2) := by decide

theorem witness_DecodeAgreesWithOpcodeMap :
    decode 0xFF65 = .ok (.ldRegs 15) ∧ decode 0xFFFF = .error (.unknownFamilyF 0xFFFF) := by decide

/-- A word of each of the four sets. -/
theorem witness_DecodeFailsExactlyOnTheListedWords :
    decode 0x0FFF = .error (.unknownFamily0 0x0FFF) ∧ decode 0x8FFF = .error (.unknownFamily8 0x8FFF) ∧
    decode 0xE000 = .error (.unknownFamilyE 0xE000) ∧ decode 0xF000 = .error (.unknownFamilyF 0xF000) := by
  decide

theorem witness_StepRunsDecodedInstruction :
    Fetches (fetching 0xFFE) (.ldImm 1 0xAB) ∧ ∃ u, exec (.ldImm 1 0xAB) (fetching 0xFFE) = .next u :=
  ⟨witness_fetches.2, _, rfl⟩

/-- Running, with the word of LD V0, K at `pc` and these inputs. -/
def waiting (inputs : List TickIn) : State :=
  (State.reset.withFetchWord 16 0xF00A).setPort { Port.reset with inputs := inputs }

theorem witness_waiting (inputs : List TickIn) : Fetches (waiting inputs) (.ldVxK 0) :=
  ⟨rfl, (by decide : 0x200 ≤ (0x200 : Word).toNat), (by decide : (0x200 : Word).toNat ≤ 0xFFE),
    (by decide : decode ((State.reset.withFetchWord 16 0xF00A).mem.read 0x200 ++
      (State.reset.withFetchWord 16 0xF00A).mem.read 0x201) = .ok (.ldVxK 0))⟩

/-- A completed step, and one that waits. -/
theorem witness_TimersCountDownAfterCompletedSteps :
    (∃ u, Fetches (fetching 0x200) (.ldImm 1 0xAB) ∧ exec (.ldImm 1 0xAB) (fetching 0x200) = .next u ∧
      u.port.out = some ⟨.ok, false⟩) ∧
    (∃ u, Fetches (waiting [⟨none, 0⟩]) (.ldVxK 0) ∧ exec (.ldVxK 0) (waiting [⟨none, 0⟩]) = .next u ∧
      u.port.out = some ⟨.waiting, false⟩) :=
  ⟨⟨_, witness_fetches.1, rfl, rfl⟩, ⟨_, witness_waiting [⟨none, 0⟩], rfl, rfl⟩⟩

/-- The lowest and the highest `pc`. -/
theorem witness_DecodeFailureIsSkippedAndReported :
    (State.reset.status = .running ∧ 0x200 ≤ State.reset.pc.toNat ∧ State.reset.pc.toNat ≤ 0xFFE ∧
      decode (State.reset.mem.read 0x200 ++ State.reset.mem.read 0x201) = .error (.unknownFamily0 0)) ∧
    ((State.reset.setPc 0xFFE).pc.toNat ≤ 0xFFE ∧
      decode (State.reset.mem.read 0xFFE ++ State.reset.mem.read 0xFFF) = .error (.unknownFamily0 0)) := by
  decide

theorem witness_PcOutOfRangeHalts :
    (State.reset.setPc 0x1FF).status = .running ∧ (State.reset.setPc 0x1FF).pc.toNat < 0x200 ∧
    0xFFE < (State.reset.setPc 0xFFF).pc.toNat := by decide

/-- After a tick of RET on the empty stack. -/
def halted : State :=
  (State.reset.setStatus (.halted .stackUnderflow 0x200)).setPort { Port.reset with boot := .ticked }

theorem witness_HaltedTickChangesNothing : halted.status = .halted .stackUnderflow 0x200 := rfl

/-- A tick of CLS, and one of LD V1, 0xAB. -/
theorem witness_RedrawReportedExactlyForDisplay :
    (∃ t, step (State.reset.withFetchWord 16 0x00E0) = .next t ∧ t.port.out = some ⟨.ok, true⟩) ∧
    (∃ t, step (fetching 0x200) = .next t ∧ t.port.out = some ⟨.ok, false⟩) :=
  ⟨⟨_, rfl, rfl⟩, ⟨_, rfl, rfl⟩⟩

theorem witness_FatalTickChangesOnlyStatus :
    (State.reset.setPc 0xFFF).status = .running ∧
    ∃ t, step (State.reset.setPc 0xFFF) = .next t ∧ t.status = .halted .pcOutOfRange 0xFFF :=
  ⟨rfl, _, rfl, rfl⟩

/-- Each of the causes an instruction can raise, the block one byte too long. -/
theorem witness_OnlyListedInstructionsHalt :
    (∃ t, exec (.call 0x200) { State.reset with sp := 16 } = .next t ∧
      t.status = .halted .stackOverflow 0x200) ∧
    (∃ t, exec .ret State.reset = .next t ∧ t.status = .halted .stackUnderflow 0x200) ∧
    (∃ t, exec (.ldB 0) { State.reset with i := 0xFFE } = .next t ∧
      t.status = .halted .memOutOfRange 0x1000) ∧
    (∃ t, exec (.drw 0 0 1) { State.reset with i := 0x1000 } = .next t ∧
      t.status = .halted .memOutOfRange 0x1000) :=
  ⟨⟨_, rfl, rfl⟩, ⟨_, rfl, rfl⟩, ⟨_, rfl, rfl⟩, ⟨_, rfl, rfl⟩⟩

/-- The invariant holds of a halted state, and of one whose stack holds the highest return address. -/
theorem witness_StepKeepsTheInvariant :
    (Inv halted ∧ ∃ t, step halted = .next t) ∧
    (Inv (State.reset.push 0x1000 (by decide)) ∧ ∃ t, step (State.reset.push 0x1000 (by decide)) = .next t) := by
  refine ⟨⟨⟨by decide, ?_, by decide, ⟨rfl, rfl⟩, ?_⟩, _, rfl⟩, ⟨⟨by decide, ?_, by decide, ?_, ?_⟩, _, rfl⟩⟩
  · intro j hj; simp [halted, State.reset] at hj
  · simp [BootOk, halted]
  · intro j hj
    rw [State.push_slot, if_pos (by simpa [State.reset] using hj)]
    decide
  · simp [HaltOk, State.reset]
  · simp [BootOk, State.reset]

/-- Each action is taken from a state that meets the invariant, a load of the longest image length aside
(`witness_LoadCopiesTheImageOrRefuses`). -/
theorem witness_HostActionsKeepTheInvariant :
    (Inv halted ∧ (∃ t, hostAct (.tick ⟨some 15, 0xFF⟩) halted = .next t) ∧
      (∃ t, hostAct (.keyDown 15) halted = .next t) ∧ (∃ t, hostAct (.keyUp 0) halted = .next t) ∧
      (∃ t, hostAct .renderAck halted = .next t) ∧ ∃ t, hostAct .reset halted = .next t) ∧
    (Inv State.reset ∧ ∃ t, hostAct (.load [0x12, 0x00]) State.reset = .next t) := by
  refine ⟨⟨witness_StepKeepsTheInvariant.1.1, ⟨_, rfl⟩, ⟨_, rfl⟩, ⟨_, rfl⟩, ⟨_, rfl⟩, _, rfl⟩,
    ⟨by decide, ?_, by decide, ?_, ?_⟩, _, rfl⟩
  · intro j hj; simp [State.reset] at hj
  · simp [HaltOk, State.reset]
  · simp [BootOk, State.reset]

theorem witness_SessionsStayInTheInvariant :
    ∃ t, hostRun [.load [0x12, 0x00], .tick ⟨none, 0⟩, .keyDown 15, .renderAck, .reset] State.reset = .next t :=
  ⟨_, rfl⟩

theorem witness_OnlyResetLeavesHalted :
    halted.status = .halted .stackUnderflow 0x200 ∧
    HostAction.reset ∉ [HostAction.tick ⟨none, 0⟩, .keyDown 0, .renderAck] ∧
    ∃ t, hostRun [.tick ⟨none, 0⟩, .keyDown 0, .renderAck] halted = .next t :=
  ⟨rfl, by decide, _, rfl⟩

/-- Each clause: `I`, the stack, DT, ST, memory and the framebuffer do change. -/
theorem witness_EachStoreHasItsOnlyWriters :
    (∃ t, exec (.ldI 0xFFF) State.reset = .next t ∧ t.i ≠ State.reset.i) ∧
    (∃ t, exec (.call 0x300) State.reset = .next t ∧ t.sp ≠ State.reset.sp) ∧
    (∃ t, exec (.ldDtVx 0) (regs [(0, 1)]) = .next t ∧ t.dt ≠ (regs [(0, 1)]).dt) ∧
    (∃ t, exec (.ldStVx 0) (regs [(0, 1)]) = .next t ∧ t.st ≠ (regs [(0, 1)]).st) ∧
    (∃ t, exec (.stRegs 0) { State.reset with i := 0xFFF, v := (regs [(0, 1)]).v } = .next t ∧
      t.mem ≠ State.reset.mem) ∧
    (∃ t, exec (.drw 0 0 1) State.reset = .next t ∧ t.fb ≠ State.reset.fb) :=
  ⟨⟨_, rfl, by decide⟩, ⟨_, rfl, by decide⟩, ⟨_, rfl, by decide⟩, ⟨_, rfl, by decide⟩,
    ⟨_, rfl, by decide⟩, ⟨_, rfl, by decide⟩⟩

/-- VF changed by a flag writer and by an instruction that names it. -/
theorem witness_FlagRegisterHasItsOnlyWriters :
    (∃ t, exec (.sub 15 0) State.reset = .next t ∧ t.reg 15 ≠ State.reset.reg 15) ∧
    (∃ t, exec (.ldImm 15 7) State.reset = .next t ∧ t.reg 15 ≠ State.reset.reg 15) :=
  ⟨⟨_, rfl, by decide⟩, ⟨_, rfl, by decide⟩⟩

/-- Two states that differ in the sound timer, the dirty flag and a stale slot, at a RET from the slot
in use. -/
theorem witness_OutputsDoNotSteerTheMachine :
    SteersAlike (State.reset.push 0x345 (by decide)).pop ((State.reset.setSt 5).setDf true) ∧
    (∃ t, step (State.reset.push 0x345 (by decide)).pop = .next t) ∧
    (∃ t, step ((State.reset.setSt 5).setDf true) = .next t) :=
  ⟨⟨rfl, rfl, rfl, fun j hj => absurd hj (by simp [State.push, State.pop, State.reset]), by decide, rfl, rfl,
    rfl, rfl, rfl, rfl, rfl⟩, ⟨_, rfl⟩, ⟨_, rfl⟩⟩

/-- One slot in use, all in use, none. -/
theorem witness_ReturnPopsOrUnderflows :
    ({ State.reset with sp := 1 } : State).sp.val = (0 : Fin 16).val + 1 ∧
    ({ State.reset with sp := 16 } : State).sp.val = (15 : Fin 16).val + 1 ∧ State.reset.sp.val = 0 := by decide

/-- No slot in use, all but one, all. -/
theorem witness_CallPushesOrOverflows :
    State.reset.sp.val = (0 : Fin 16).val ∧
    ({ State.reset with sp := 15 } : State).sp.val = (15 : Fin 16).val ∧
    ({ State.reset with sp := 16 } : State).sp.val = 16 := by decide

theorem witness_CallThenReturnComesBack :
    ({ State.reset with sp := 15 } : State).sp.val = (15 : Fin 16).val ∧
    ∃ t, exec (.call 0xABC) { State.reset with sp := 15 } = .next t :=
  ⟨rfl, _, rfl⟩

theorem witness_JumpSetsPc :
    State.reset.status = .running ∧ (0x1FF : Addr12).toNat < 0x200 ∧ (0xFFF : Addr12).toNat = 0xFFF := by
  decide

/-- Out of range by the sum, and below. -/
theorem witness_JumpWithOffsetAddsV0 :
    (∃ t, exec (.jpV0 0xFFE) (regs [(0, 1)]) = .next t ∧ 0xFFE < t.pc.toNat) ∧
    (∃ t, exec (.jpV0 0x1FF) State.reset = .next t ∧ t.pc.toNat < 0x200) :=
  ⟨⟨_, rfl, by decide⟩, ⟨_, rfl, by decide⟩⟩

/-- Equal and not equal, for the immediate skips. -/
theorem witness_ImmediateSkipsCompareTheRegister :
    ((regs [(3, 0xFF)]).reg 3).toNat = (0xFF : Byte).toNat ∧
    ((regs [(3, 0xFF)]).reg 3).toNat ≠ (0x00 : Byte).toNat := by decide

/-- Equal and not equal, for the register skips. -/
theorem witness_RegisterSkipsIgnoreTheLowNibble :
    (regs [(3, 7)]).reg 3 = (regs [(3, 7)]).reg 3 ∧ (regs [(3, 7)]).reg 3 ≠ (regs [(3, 7)]).reg 4 := by decide

/-- `x ≠ 15`, the hypothesis of the flag writers' results. -/
theorem witness_notTheFlagRegister : (0 : Reg) ≠ 15 ∧ (14 : Reg) ≠ 15 := by decide

theorem witness_RandomIsTheDrawUnderTheMask :
    (State.reset.offer ⟨none, 0xA7⟩).port.inputs = ⟨none, 0xA7⟩ :: [] := rfl

/-- The last block that lies in memory and the first that does not. -/
theorem witness_DecimalDigitsAreStored :
    ({ State.reset with i := 0xFFD } : State).mem.wf = true ∧
    ({ State.reset with i := 0xFFD } : State).i.toNat + 2 ≤ 0xFFF ∧
    0xFFF < ({ State.reset with i := 0xFFE } : State).i.toNat + 2 := by decide

/-- The last block that lies in memory and the first that does not, for ST_REGS and LD_REGS. -/
theorem witness_RegistersAreStoredAndLoaded :
    ({ State.reset with i := 0xFF0 } : State).mem.wf = true ∧
    ({ State.reset with i := 0xFF0 } : State).i.toNat + (15 : Reg).val ≤ 0xFFF ∧
    0xFFF < ({ State.reset with i := 0xFF1 } : State).i.toNat + (15 : Reg).val ∧
    (0 : Reg) ≤ 0 ∧ (14 : Reg) < 15 := by decide

theorem witness_StoreAndLoadRoundTrip :
    ({ State.reset with i := 0xFFF } : State).mem.wf = true ∧
    ({ State.reset with i := 0xFFF } : State).i.toNat + (0 : Reg).val ≤ 0xFFF := by decide

/-- The corner cell named by coordinates that wrap, and another. -/
theorem witness_XorPixelInvertsOneCell :
    (63 < 64 ∧ 31 < 32) ∧ (63 = 127 % 64 ∧ 31 = 63 % 32) ∧ ¬(0 = 127 % 64 ∧ 31 = 63 % 32) := by decide

/-- No rows with `I` anywhere; rows up to the last byte; a cell the glyph of 0 covers and one it does
not; a lit cell under it. -/
theorem witness_DrawXorsTheSprite :
    ((0 : Nibble).toNat = 0 ∧ ({ State.reset with i := 0xFF1 } : State).i.toNat + (15 : Nibble).toNat - 1 ≤ 0xFFF) ∧
    SpriteCovers State.reset 0 0 5 0 0 ∧ pixelAt (xorPixel clearFb 0 0) 0 0 = true ∧
    ¬SpriteCovers State.reset 0 0 5 63 31 := by
  refine ⟨by decide, ⟨0, 0, by decide, by decide, by decide, by decide, by decide⟩, by decide, ?_⟩
  rintro ⟨r, c, hr, hc, hx, hy, -⟩
  omega

theorem witness_DrawPastMemoryHalts :
    (15 : Nibble).toNat ≠ 0 ∧
    0xFFF < ({ State.reset with i := 0xFF2 } : State).i.toNat + (15 : Nibble).toNat - 1 := by decide

/-- The glyph of 0 drawn twice on an empty screen, its coordinates not in VF. -/
theorem witness_DrawingTwiceRestores :
    State.reset.i.toNat + (5 : Nibble).toNat - 1 ≤ 0xFFF ∧
    (∃ t u, exec (.drw 0 1 5) State.reset = .next t ∧ t.reg 0 = State.reset.reg 0 ∧
      t.reg 1 = State.reset.reg 1 ∧ exec (.drw 0 1 5) t = .next u) ∧
    (∃ px py, px < 64 ∧ py < 32 ∧
      SpriteCovers State.reset (State.reset.reg 0).toNat (State.reset.reg 1).toNat (5 : Nibble).toNat px py) ∧
    (∀ px py, pixelAt State.reset.fb px py = false) ∧
    ¬∃ px py, px < 64 ∧ py < 32 ∧
      SpriteCovers State.reset (State.reset.reg 0).toNat (State.reset.reg 1).toNat (0 : Nibble).toNat px py := by
  refine ⟨by decide, ⟨_, _, rfl, by decide, by decide, rfl⟩, ⟨0, 0, by decide, by decide, 0, 0, by decide,
    by decide, by decide, by decide, by decide⟩, fun px py => by simp [pixelAt, State.reset], ?_⟩
  rintro ⟨px, py, -, -, r, c, hr, -⟩
  simp at hr

/-- A key down and a key up, the highest. -/
theorem witness_KeySkipsReadTheLatch :
    (15 : Key).val = ((regs [(2, 0xFF)]).reg 2).toNat % 16 ∧
    (held 15 (regs [(2, 0xFF)])).keys[(15 : Key)] = true ∧ (regs [(2, 0xFF)]).keys[(15 : Key)] = false := by
  decide

/-- An event offered; none offered to a fetched key wait. -/
theorem witness_KeyWaitCompletesOnlyOnAnEvent :
    (waiting [⟨some 15, 0⟩]).port.inputs = ⟨some 15, 0⟩ :: [] ∧
    (waiting [⟨none, 0⟩]).port.inputs = ⟨none, 0⟩ :: [] ∧ Fetches (waiting [⟨none, 0⟩]) (.ldVxK 0) :=
  ⟨rfl, rfl, witness_waiting _⟩

/-- Fetched reads and writes of the timers. -/
theorem witness_timerInstructionsAreFetched :
    Fetches (State.reset.withFetchWord 16 0xF107) (.ldVxDt 1) ∧
    Fetches (State.reset.withFetchWord 16 0xF015) (.ldDtVx 0) ∧
    Fetches (State.reset.withFetchWord 16 0xF518) (.ldStVx 5) :=
  ⟨⟨rfl, by decide, by decide, by decide⟩, ⟨rfl, by decide, by decide, by decide⟩,
    ⟨rfl, by decide, by decide, by decide⟩⟩

/-- The longest image that fits and the shortest that does not. -/
theorem witness_LoadCopiesTheImageOrRefuses :
    State.reset.port.boot = .fresh ∧ State.reset.mem.wf = true ∧
    (List.replicate 3584 (0 : Byte)).length ≤ 3584 ∧ 3584 < (List.replicate 3585 (0 : Byte)).length := by
  refine ⟨rfl, rfl, ?_, ?_⟩ <;> simp only [List.length_replicate] <;> omega

theorem witness_KeyEventsAndAcknowledgeWriteOneThing : (0 : Key) ≠ 15 := by decide

end Sys2Proof.Machine.Tests
end

namespace Sys2Proof

/-! ## The decoder on the plain families of format `XKK` (30_encoding.md R93) -/

@[simp] theorem decode_formXkk_seImm (x : Reg) (kk : Byte) :
    decode (formXkk 0x3 x kk) = .ok (.seImm x kk) := by
  simp [decode]

@[simp] theorem decode_formXkk_sneImm (x : Reg) (kk : Byte) :
    decode (formXkk 0x4 x kk) = .ok (.sneImm x kk) := by
  simp [decode]

end Sys2Proof

namespace Sys2Proof.Machine

/-! ## How a completed instruction frames the state -/

/-- Completing an instruction writes `pc` and the tick's outputs, neither of them a `Part`: what was
untouched up to then stays so. -/
theorem Untouched.complete {written : List Part} {s u : State} (h : Untouched written s u)
    (target : Word) (redraw : Bool) :
    Untouched written s ((u.setPc target).setOut .ok redraw) :=
  h.trans ⟨fun _ _ => rfl, fun _ => rfl, fun _ _ => rfl, fun _ => rfl, fun _ => rfl, fun _ => rfl,
    fun _ _ => rfl, fun _ => rfl, fun _ => rfl, fun _ => rfl, fun _ => rfl⟩

/-! ## Conditional skips (10_state.md R25, 41_flow.md R144 to R148) -/

@[simp] theorem State.skipTarget_true (s : State) : s.skipTarget true = s.pc + 4 := rfl

@[simp] theorem State.skipTarget_false (s : State) : s.skipTarget false = s.pc + 2 := rfl

/-- An instruction that completes at a skip target, and so writes nothing but `pc`: it goes four further
where its condition holds and two further where it does not. The condition is given as the two
propositions a statement writes for it. -/
theorem skip_completes {taken passed : Prop} (condition : Bool) (s : State)
    (htaken : taken → condition = true) (hpassed : passed → condition = false) :
    ∃ t, complete (s.skipTarget condition) false s = .next t ∧
      (taken → t.pc = s.pc + 4) ∧ (passed → t.pc = s.pc + 2) ∧
      Untouched [] s t ∧ Reports .ok false s t :=
  ⟨_, complete_eq _ _ _, fun h => by simp [htaken h], fun h => by simp [hpassed h],
    (Untouched.refl [] s).complete _ _, rfl⟩

/-- SE Vx, kk skips exactly where the unsigned values agree (R144). -/
theorem execSeImm_skips (x : Reg) (kk : Byte) (s : State) :
    ∃ t, exec (.seImm x kk) s = .next t ∧
      ((s.reg x).toNat = kk.toNat → t.pc = s.pc + 4) ∧
      ((s.reg x).toNat ≠ kk.toNat → t.pc = s.pc + 2) ∧
      Untouched [] s t ∧ Reports .ok false s t :=
  skip_completes (s.reg x == kk) s
    (fun h => beq_iff_eq.2 (BitVec.eq_of_toNat_eq h))
    (fun h => beq_eq_false_iff_ne.2 (BitVec.toNat_ne_iff_ne.1 h))

/-- SNE Vx, kk skips exactly where the unsigned values differ (R145). -/
theorem execSneImm_skips (x : Reg) (kk : Byte) (s : State) :
    ∃ t, exec (.sneImm x kk) s = .next t ∧
      ((s.reg x).toNat ≠ kk.toNat → t.pc = s.pc + 4) ∧
      ((s.reg x).toNat = kk.toNat → t.pc = s.pc + 2) ∧
      Untouched [] s t ∧ Reports .ok false s t :=
  skip_completes (s.reg x != kk) s
    (fun h => bne_iff_ne.2 (BitVec.toNat_ne_iff_ne.1 h))
    (fun h => bne_eq_false_iff_eq.2 (BitVec.eq_of_toNat_eq h))

/-- Settles O27: the two words are the formats that the decoder reads as SE and SNE, and each of the two
completes at the skip target of its comparison. -/
theorem immediateSkipsCompareTheRegister : Obligations.ImmediateSkipsCompareTheRegister := by
  intro x kk
  exact ⟨decode_formXkk_seImm x kk, decode_formXkk_sneImm x kk,
    fun s => ⟨execSeImm_skips x kk s, execSneImm_skips x kk s⟩⟩

end Sys2Proof.Machine

namespace Sys2Proof

/-! ## The decoder on LD_IMM, ADD_IMM and MOV (30_encoding.md R93) -/

@[simp] theorem decode_formXkk_ldImm (x : Reg) (kk : Byte) :
    decode (formXkk 0x6 x kk) = .ok (.ldImm x kk) := by
  simp [decode]

@[simp] theorem decode_formXkk_addImm (x : Reg) (kk : Byte) :
    decode (formXkk 0x7 x kk) = .ok (.addImm x kk) := by
  simp [decode]

@[simp] theorem decode_formXyn_mov (x y : Reg) :
    decode (formXyn 0x8 x y 0x0) = .ok (.mov x y) := by
  simp [decode, decodeFamily8]

end Sys2Proof

namespace Sys2Proof.Machine

/-! ## Instructions that write one register (42_alu.md R162 to R167, R173) -/

/-- A register write leaves everything but that register. -/
theorem Untouched.setReg (s : State) (x : Reg) (b : Byte) : Untouched [.reg x] s (s.setReg x b) where
  reg r h := State.setReg_reg_ne s x b r fun e => h (by simp [e])
  i _ := rfl
  slot _ _ := rfl
  sp _ := rfl
  dt _ := rfl
  st _ := rfl
  mem _ _ := rfl
  fb _ := rfl
  df _ := rfl
  keys _ := rfl
  status _ := rfl

/-- An instruction that writes `b` to `Vx` and goes on to the next one: that register and `pc` are all it
changes, VF included where `x` is not F. -/
theorem setReg_completes (x : Reg) (b : Byte) (s : State) :
    ∃ t, complete s.following false (s.setReg x b) = .next t ∧ t.reg x = b ∧ t.pc = s.pc + 2 ∧
      Untouched [.reg x] s t ∧ Reports .ok false s t :=
  ⟨_, complete_eq _ _ _, by simp, rfl, (Untouched.setReg s x b).complete _ _, rfl⟩

/-- Settles O29: the word is the format that the decoder reads as LD Vx, kk, which writes `kk` to `Vx`. -/
theorem loadImmediateSetsRegister : Obligations.LoadImmediateSetsRegister := by
  intro x kk
  exact ⟨decode_formXkk_ldImm x kk, setReg_completes x kk⟩

/-- ADD Vx, kk writes the sum as a byte, which as a number is the sum modulo 256 (R163, R174). -/
theorem execAddImm_wraps (x : Reg) (kk : Byte) (s : State) :
    ∃ t, exec (.addImm x kk) s = .next t ∧
      (t.reg x).toNat = ((s.reg x).toNat + kk.toNat) % 256 ∧ t.pc = s.pc + 2 ∧
      Untouched [.reg x] s t ∧ Reports .ok false s t := by
  obtain ⟨t, hexec, hreg, hrest⟩ := setReg_completes x (s.reg x + kk) s
  have hsum : (t.reg x).toNat = ((s.reg x).toNat + kk.toNat) % 256 := by
    rw [hreg, BitVec.toNat_add]
  exact ⟨t, hexec, hsum, hrest⟩

/-- Settles O30: the word is the format that the decoder reads as ADD Vx, kk, which writes the wrapped sum
to `Vx` and nothing to VF. -/
theorem addImmediateWrapsWithoutFlag : Obligations.AddImmediateWrapsWithoutFlag := by
  intro x kk
  exact ⟨decode_formXkk_addImm x kk, execAddImm_wraps x kk⟩

/-- Settles O31: the word is the format that the decoder reads as MOV Vx, Vy, which writes the byte in
`Vy` to `Vx`. -/
theorem moveCopiesRegister : Obligations.MoveCopiesRegister := by
  intro x y
  exact ⟨decode_formXyn_mov x y, fun s => setReg_completes x (s.reg y) s⟩

end Sys2Proof.Machine

namespace Sys2Proof

/-! ## The decoder on LD_I and LD_F (30_encoding.md R93) -/

/-- The format `XKK` written as the pattern of R94 is: the fixed digits as one number, then `x`. -/
theorem formXkk_eq_pattern (op : Nibble) (x : Reg) (kk : Byte) :
    formXkk op x kk = BitVec.ofNat 16 (0x1000 * op.toNat + kk.toNat + 0x100 * x.val) := by
  rw [formXkk, Nat.add_right_comm]

@[simp] theorem decode_formNnn_ldI (nnn : Addr12) : decode (formNnn 0xA nnn) = .ok (.ldI nnn) := by
  simp [decode]

@[simp] theorem decode_formXkk_ldF (x : Reg) : decode (formXkk 0xF x 0x29) = .ok (.ldF x) := by
  simp [decode, decodeFamilyF]

end Sys2Proof

namespace Sys2Proof.Machine

/-! ## Instructions that write `I` (43_index_memory.md R191 to R193) -/

@[simp] theorem addrOf_toNat (nnn : Addr12) : (addrOf nnn).toNat = nnn.toNat :=
  BitVec.toNat_setWidth_of_le (by decide)

@[simp] theorem glyphAddr_toNat (b : Byte) : (glyphAddr b).toNat = 5 * (b.toNat % 16) := by
  rw [glyphAddr, glyphBytes, BitVec.toNat_ofNat]; omega

/-- `I` keeps the low twelve bits of what is written to it. -/
theorem State.setI_i_toNat (s : State) (a : Word) : (s.setI a).i.toNat = a.toNat % 4096 := by
  rw [State.setI_i, BitVec.toNat_and]
  exact and_low a.toNat 12

/-- A write of `I` leaves everything but `I`. -/
theorem Untouched.setI (s : State) (a : Word) : Untouched [.i] s (s.setI a) where
  reg _ _ := rfl
  i h := absurd (List.mem_singleton_self _) h
  slot _ _ := rfl
  sp _ := rfl
  dt _ := rfl
  st _ := rfl
  mem _ _ := rfl
  fb _ := rfl
  df _ := rfl
  keys _ := rfl
  status _ := rfl

/-- An instruction that writes `a` to `I` and goes on to the next one: `I`, modulo 4096, and `pc` are all
it changes. -/
theorem setI_completes (a : Word) (s : State) :
    ∃ t, complete s.following false (s.setI a) = .next t ∧ t.i.toNat = a.toNat % 4096 ∧
      t.pc = s.pc + 2 ∧ Untouched [.i] s t ∧ Reports .ok false s t :=
  ⟨_, complete_eq _ _ _, State.setI_i_toNat s a, rfl, (Untouched.setI s a).complete _ _, rfl⟩

/-- LD I, nnn writes `nnn` whole: twelve bits are what `I` holds (R191). -/
theorem execLdI_setsI (nnn : Addr12) (s : State) :
    ∃ t, exec (.ldI nnn) s = .next t ∧ t.i.toNat = nnn.toNat ∧ t.pc = s.pc + 2 ∧
      Untouched [.i] s t ∧ Reports .ok false s t := by
  obtain ⟨t, hexec, hi, hrest⟩ := setI_completes (addrOf nnn) s
  have hnnn : t.i.toNat = nnn.toNat := by
    rw [hi, addrOf_toNat, Nat.mod_eq_of_lt nnn.isLt]
  exact ⟨t, hexec, hnnn, hrest⟩

/-- Settles O38: the word is the format that the decoder reads as LD I, nnn, which writes `nnn` to `I`. -/
theorem loadIndexSetsI : Obligations.LoadIndexSetsI := by
  intro nnn
  exact ⟨decode_formNnn_ldI nnn, execLdI_setsI nnn⟩

/-- LD F, Vx writes a glyph's address whole: the last glyph begins at 75, far below 4096 (R193). -/
theorem execLdF_setsI (x : Reg) (s : State) :
    ∃ t, exec (.ldF x) s = .next t ∧ t.i.toNat = 5 * ((s.reg x).toNat % 16) ∧ t.pc = s.pc + 2 ∧
      Untouched [.i] s t ∧ Reports .ok false s t := by
  obtain ⟨t, hexec, hi, hrest⟩ := setI_completes (glyphAddr (s.reg x)) s
  have hglyph : t.i.toNat = 5 * ((s.reg x).toNat % 16) := by
    rw [hi, glyphAddr_toNat]; omega
  exact ⟨t, hexec, hglyph, hrest⟩

/-- Settles O40: the word is the format that the decoder reads as LD F, Vx, which writes the address of
the glyph to `I`. -/
theorem fontAddressIsFiveTimesTheDigit : Obligations.FontAddressIsFiveTimesTheDigit := by
  intro x
  have hdecode := decode_formXkk_ldF x
  rw [formXkk_eq_pattern] at hdecode
  exact ⟨hdecode, execLdF_setsI x⟩

end Sys2Proof.Machine

namespace Sys2Proof

/-! ## The decoder on CLS (30_encoding.md R93) -/

@[simp] theorem decode_formNnn_cls : decode (formNnn 0x0 0x0E0) = .ok .cls := by
  simp [decode, decodeFamily0]

end Sys2Proof

namespace Sys2Proof.Machine

/-! ## Instructions that write the framebuffer (44_display.md R211, R213) -/

/-- A new framebuffer with the dirty flag set leaves everything but those two. -/
theorem Untouched.setFb_setDf (s : State) (fb : Framebuffer) (b : Bool) :
    Untouched [.fb, .df] s ((s.setFb fb).setDf b) where
  reg _ _ := rfl
  i _ := rfl
  slot _ _ := rfl
  sp _ := rfl
  dt _ := rfl
  st _ := rfl
  mem _ _ := rfl
  fb h := absurd List.mem_cons_self h
  df h := absurd (List.mem_cons_of_mem _ List.mem_cons_self) h
  keys _ := rfl
  status _ := rfl

/-- CLS replaces the framebuffer by the cleared one, of which every cell reads 0, and reports a redraw
(R210, R211). -/
theorem execCls_clears (s : State) :
    ∃ t, exec .cls s = .next t ∧ (∀ px py : Nat, pixelAt t.fb px py = false) ∧ t.df = true ∧
      t.pc = s.pc + 2 ∧ Untouched [.fb, .df] s t ∧ Reports .ok true s t :=
  ⟨_, complete_eq _ _ _, pixelAt_clearFb, rfl, rfl,
    (Untouched.setFb_setDf s clearFb true).complete _ _, rfl⟩

/-- Settles O46: the word is the one that the decoder reads as CLS, which clears the framebuffer. -/
theorem clearScreenEmptiesTheFramebuffer : Obligations.ClearScreenEmptiesTheFramebuffer :=
  ⟨decode_formNnn_cls, execCls_clears⟩

end Sys2Proof.Machine

namespace Sys2Proof

/-! ## The decoder on SKP and SKNP (30_encoding.md R93) -/

@[simp] theorem decode_formXkk_skp (x : Reg) : decode (formXkk 0xE x 0x9E) = .ok (.skp x) := by
  simp [decode, decodeFamilyE]

@[simp] theorem decode_formXkk_sknp (x : Reg) : decode (formXkk 0xE x 0xA1) = .ok (.sknp x) := by
  simp [decode, decodeFamilyE]

end Sys2Proof

namespace Sys2Proof.Machine

/-! ## Skips that read the key latch (45_input_timers.md R231, R232) -/

theorem keyOf_eq_of_val {b : Byte} {k : Key} (hk : k.val = b.toNat % 16) : keyOf b = k :=
  Fin.ext hk.symm

/-- SKP Vx skips exactly where the latch holds the selected key down (R231). -/
theorem execSkp_skips (x : Reg) (s : State) :
    ∃ t, exec (.skp x) s = .next t ∧
      (s.keys[keyOf (s.reg x)] = true → t.pc = s.pc + 4) ∧
      (s.keys[keyOf (s.reg x)] = false → t.pc = s.pc + 2) ∧
      Untouched [] s t ∧ Reports .ok false s t :=
  skip_completes s.keys[keyOf (s.reg x)] s id id

/-- SKNP Vx skips exactly where the latch holds the selected key up (R232). -/
theorem execSknp_skips (x : Reg) (s : State) :
    ∃ t, exec (.sknp x) s = .next t ∧
      (s.keys[keyOf (s.reg x)] = false → t.pc = s.pc + 4) ∧
      (s.keys[keyOf (s.reg x)] = true → t.pc = s.pc + 2) ∧
      Untouched [] s t ∧ Reports .ok false s t :=
  skip_completes (!s.keys[keyOf (s.reg x)]) s
    (fun hup => by rw [hup, Bool.not_false]) (fun hdown => by rw [hdown, Bool.not_true])

/-- Settles O50: the two words are the formats that the decoder reads as SKP and SKNP, and each of the two
completes at the skip target that the latch slot of the selected key decides. -/
theorem keySkipsReadTheLatch : Obligations.KeySkipsReadTheLatch := by
  intro x
  have hskp := decode_formXkk_skp x
  have hsknp := decode_formXkk_sknp x
  rw [formXkk_eq_pattern] at hskp hsknp
  refine ⟨hskp, hsknp, fun s k hk => ?_⟩
  obtain rfl := keyOf_eq_of_val hk
  exact ⟨execSkp_skips x s, execSknp_skips x s⟩

end Sys2Proof.Machine

namespace Sys2Proof

/-! ## Decoding inverts encoding (30_encoding.md R91 to R94) -/

/-- The decoder reads every instruction from its own word: the primary dispatch sees the top nibble of the
format, the secondary dispatch of the families 0, 8, E and F the key that the format puts there. -/
theorem decode_encode (i : Instr) : decode (encode i) = .ok i := by
  cases i with
  | cls | ret => simp [encode, decode, decodeFamily0]
  | mov x y | or x y | and x y | xor x y | add x y | sub x y | shr x y | subn x y | shl x y =>
    simp [encode, decode, decodeFamily8]
  | skp x | sknp x => simp [encode, decode, decodeFamilyE]
  | ldVxDt x | ldVxK x | ldDtVx x | ldStVx x | addI x | ldF x | ldB x | stRegs x | ldRegs x =>
    simp [encode, decode, decodeFamilyF]
  | jp nnn | call nnn | ldI nnn | jpV0 nnn => simp [encode, decode]
  | seImm x kk | sneImm x kk | ldImm x kk | addImm x kk | rnd x kk => simp [encode, decode]
  | seReg x y n | sneReg x y n | drw x y n => simp [encode, decode]

/-- Settles O2, family by family of the decoder. -/
theorem decodeInvertsEncode : Obligations.DecodeInvertsEncode := decode_encode

/-! ## Encoding inverts decoding -/

/-- A word is the format `NNN` of its family and its field. -/
theorem formNnn_of_op {w : Word} {op : Nibble} (hop : (fieldOp w).toNat = op.toNat) :
    formNnn op (fieldNnn w) = w := by
  rw [← BitVec.eq_of_toNat_eq hop, formNnn_fields]

/-- A word is the format `XKK` of its family and its fields. -/
theorem formXkk_of_op {w : Word} {op : Nibble} (hop : (fieldOp w).toNat = op.toNat) :
    formXkk op (fieldX w) (fieldKk w) = w := by
  rw [← BitVec.eq_of_toNat_eq hop, formXkk_fields]

/-- A word is the format `XYN` of its family and its fields. -/
theorem formXyn_of_op {w : Word} {op : Nibble} (hop : (fieldOp w).toNat = op.toNat) :
    formXyn op (fieldX w) (fieldY w) (fieldN w) = w := by
  rw [← BitVec.eq_of_toNat_eq hop, formXyn_fields]

/-- The same where the low twelve bits are known. -/
theorem formNnn_of_key {w : Word} {op : Nibble} {nnn : Addr12} (hop : (fieldOp w).toNat = op.toNat)
    (hkey : fieldNnn w = nnn) : formNnn op nnn = w := by
  rw [← hkey, formNnn_of_op hop]

/-- The same where the low byte is known. -/
theorem formXkk_of_key {w : Word} {op : Nibble} {kk : Byte} (hop : (fieldOp w).toNat = op.toNat)
    (hkey : (fieldKk w).toNat = kk.toNat) : formXkk op (fieldX w) kk = w := by
  rw [← BitVec.eq_of_toNat_eq hkey, formXkk_of_op hop]

/-- The same where the lowest nibble is known. -/
theorem formXyn_of_key {w : Word} {op n : Nibble} (hop : (fieldOp w).toNat = op.toNat)
    (hkey : (fieldN w).toNat = n.toNat) : formXyn op (fieldX w) (fieldY w) n = w := by
  rw [← BitVec.eq_of_toNat_eq hkey, formXyn_of_op hop]

theorem encode_of_decodeFamily0 {w : Word} {i : Instr} (hop : (fieldOp w).toNat = 0x0)
    (h : decodeFamily0 w = .ok i) : encode i = w := by
  unfold decodeFamily0 at h
  split at h
  · next hkey => cases h; exact formNnn_of_key hop hkey
  · split at h
    · next hkey => cases h; exact formNnn_of_key hop hkey
    · cases h

theorem encode_of_decodeFamily8 {w : Word} {i : Instr} (hop : (fieldOp w).toNat = 0x8)
    (h : decodeFamily8 w = .ok i) : encode i = w := by
  unfold decodeFamily8 at h
  split at h <;> cases h <;> exact formXyn_of_key hop ‹_›

theorem encode_of_decodeFamilyE {w : Word} {i : Instr} (hop : (fieldOp w).toNat = 0xE)
    (h : decodeFamilyE w = .ok i) : encode i = w := by
  unfold decodeFamilyE at h
  split at h <;> cases h <;> exact formXkk_of_key hop ‹_›

theorem encode_of_decodeFamilyF {w : Word} {i : Instr} (hop : (fieldOp w).toNat = 0xF)
    (h : decodeFamilyF w = .ok i) : encode i = w := by
  unfold decodeFamilyF at h
  split at h <;> cases h <;> exact formXkk_of_key hop ‹_›

/-- The sixteen families of the decode algorithm, one disjunct for each that dispatches further and one for
each format of the plain ones. -/
theorem decode_cases (w : Word) :
    ((fieldOp w).toNat = 0x0 ∧ decode w = decodeFamily0 w) ∨
    ((fieldOp w).toNat = 0x8 ∧ decode w = decodeFamily8 w) ∨
    ((fieldOp w).toNat = 0xE ∧ decode w = decodeFamilyE w) ∨
    ((fieldOp w).toNat = 0xF ∧ decode w = decodeFamilyF w) ∨
    ((fieldOp w).toNat ∉ [0x0, 0x8, 0xE, 0xF] ∧ ∃ i, decode w = .ok i ∧ encode i = w) := by
  unfold decode
  split
  case h_1 hop => exact .inl ⟨hop, rfl⟩
  case h_9 hop => exact .inr (.inl ⟨hop, rfl⟩)
  case h_15 hop => exact .inr (.inr (.inl ⟨hop, rfl⟩))
  case h_16 =>
    have hop : (fieldOp w).toNat = 0xF := by
      have hlt := (fieldOp w).isLt
      simp only [imp_false] at *
      omega
    exact .inr (.inr (.inr (.inl ⟨hop, rfl⟩)))
  case h_2 hop | h_3 hop | h_11 hop | h_12 hop =>
    exact .inr (.inr (.inr (.inr ⟨by simp [hop], _, rfl, formNnn_of_op hop⟩)))
  case h_4 hop | h_5 hop | h_7 hop | h_8 hop | h_13 hop =>
    exact .inr (.inr (.inr (.inr ⟨by simp [hop], _, rfl, formXkk_of_op hop⟩)))
  case h_6 hop | h_10 hop | h_14 hop =>
    exact .inr (.inr (.inr (.inr ⟨by simp [hop], _, rfl, formXyn_of_op hop⟩)))

/-- What a word decodes to encodes to the word. -/
theorem encode_of_decode {w : Word} {i : Instr} (h : decode w = .ok i) : encode i = w := by
  rcases decode_cases w with ⟨hop, he⟩ | ⟨hop, he⟩ | ⟨hop, he⟩ | ⟨hop, he⟩ | ⟨-, j, he, hj⟩ <;> rw [he] at h
  · exact encode_of_decodeFamily0 hop h
  · exact encode_of_decodeFamily8 hop h
  · exact encode_of_decodeFamilyE hop h
  · exact encode_of_decodeFamilyF hop h
  · cases h; exact hj

/-- Settles O3: each family's format is put together again from the fields that the family keeps. -/
theorem encodeInvertsDecode : Obligations.EncodeInvertsDecode :=
  fun _ _ h => encode_of_decode h

/-! ## Decode failures (30_encoding.md R97) -/

theorem decodeFamily0_fails_iff (w : Word) :
    (∃ e, decodeFamily0 w = .error e) ↔ (fieldNnn w).toNat ≠ 0x0E0 ∧ (fieldNnn w).toNat ≠ 0x0EE := by
  rw [decodeFamily0, show (0x0E0 : Nat) = (0x0E0#12).toNat from rfl,
    show (0x0EE : Nat) = (0x0EE#12).toNat from rfl, BitVec.toNat_ne_iff_ne, BitVec.toNat_ne_iff_ne]
  split_ifs <;> simp_all

theorem decodeFamily8_fails_iff (w : Word) :
    (∃ e, decodeFamily8 w = .error e) ↔
      (fieldN w).toNat ∈ [0x8, 0x9, 0xA, 0xB, 0xC, 0xD, 0xF] := by
  unfold decodeFamily8
  split
  case h_10 =>
    have hlt := (fieldN w).isLt
    simp only [imp_false] at *
    exact iff_of_true ⟨_, rfl⟩ (by simp only [List.mem_cons, List.not_mem_nil, or_false]; omega)
  all_goals simp [*]

theorem decodeFamilyE_fails_iff (w : Word) :
    (∃ e, decodeFamilyE w = .error e) ↔ (fieldKk w).toNat ∉ [0x9E, 0xA1] := by
  unfold decodeFamilyE
  split <;> simp_all

theorem decodeFamilyF_fails_iff (w : Word) :
    (∃ e, decodeFamilyF w = .error e) ↔
      (fieldKk w).toNat ∉ [0x07, 0x0A, 0x15, 0x18, 0x1E, 0x29, 0x33, 0x55, 0x65] := by
  unfold decodeFamilyF
  split <;> simp_all

/-- The four sets of R97, said with the fields of the word. -/
def FailureFields (w : Word) : Prop :=
  ((fieldOp w).toNat = 0x0 ∧ (fieldNnn w).toNat ≠ 0x0E0 ∧ (fieldNnn w).toNat ≠ 0x0EE) ∨
  ((fieldOp w).toNat = 0x8 ∧ (fieldN w).toNat ∈ [0x8, 0x9, 0xA, 0xB, 0xC, 0xD, 0xF]) ∨
  ((fieldOp w).toNat = 0xE ∧ (fieldKk w).toNat ∉ [0x9E, 0xA1]) ∨
  ((fieldOp w).toNat = 0xF ∧
    (fieldKk w).toNat ∉ [0x07, 0x0A, 0x15, 0x18, 0x1E, 0x29, 0x33, 0x55, 0x65])

/-- A word fails to decode exactly if its family dispatches further and its key is none that is listed. -/
theorem decode_fails_iff (w : Word) : (∃ e, decode w = .error e) ↔ FailureFields w := by
  unfold FailureFields
  rcases decode_cases w with ⟨hop, he⟩ | ⟨hop, he⟩ | ⟨hop, he⟩ | ⟨hop, he⟩ | ⟨hop, i, he, -⟩ <;> rw [he]
  · rw [decodeFamily0_fails_iff]; simp [hop]
  · rw [decodeFamily8_fails_iff]; simp [hop]
  · rw [decodeFamilyE_fails_iff]; simp [hop]
  · rw [decodeFamilyF_fails_iff]; simp [hop]
  · simp_all

/-- Settles O5: the fields of a word are its quotients and remainders. -/
theorem decodeFailsExactlyOnTheListedWords : Obligations.DecodeFailsExactlyOnTheListedWords := by
  intro w
  rw [decode_fails_iff, FailureFields, fieldOp_toNat, fieldNnn_toNat, fieldN_toNat, fieldKk_toNat]

/-! ## The opcode map (30_encoding.md R94) -/

/-- The word of an instruction is selected by the row of its name and by no other. -/
theorem opcodeMap_selected_encode (i : Instr) :
    (opcodeMap.filter (OpcodeRow.selects · (encode i))).map OpcodeRow.mnemonic = [i.mnemonic] := by
  simp only [opcodeMap, opcodeMapPlain, opcodeMap08, opcodeMapEF, List.cons_append, List.nil_append,
    List.filter_cons, List.filter_nil, selects_top, selects_ends, selects_byte, selects_all, BitVec.reduceToNat]
  cases i <;> simp [encode, Instr.mnemonic]

/-- No row selects a word of the four sets of R97. -/
theorem opcodeMap_selected_of_failure {w : Word} (h : FailureFields w) :
    opcodeMap.filter (OpcodeRow.selects · w) = [] := by
  simp only [opcodeMap, opcodeMapPlain, opcodeMap08, opcodeMapEF, List.cons_append, List.nil_append,
    List.filter_cons, List.filter_nil, selects_top, selects_ends, selects_byte, selects_all, BitVec.reduceToNat]
  rcases h with ⟨hop, hkey⟩ | ⟨hop, hkey⟩ | ⟨hop, hkey⟩ | ⟨hop, hkey⟩
  · simp_all
  · simp only [List.mem_cons, List.not_mem_nil, or_false] at hkey
    rcases hkey with hkey | hkey | hkey | hkey | hkey | hkey | hkey <;> simp [hop, hkey]
  · simp_all
  · simp_all

/-- Settles O4: a word that decodes is the word of its instruction, and one that does not is in one of the
four sets. -/
theorem decodeAgreesWithOpcodeMap : Obligations.DecodeAgreesWithOpcodeMap := by
  intro w
  refine ⟨fun i hi => ?_, fun e he => ?_⟩
  · rw [← encode_of_decode hi]
    exact opcodeMap_selected_encode i
  · exact opcodeMap_selected_of_failure ((decode_fails_iff w).1 ⟨e, he⟩)

/-! ## Words written out -/

/-- Settles O1: twenty-two closed words, which the decoder evaluates. -/
theorem wordsOfEveryFamilyDecode : Obligations.WordsOfEveryFamilyDecode := by
  unfold Obligations.WordsOfEveryFamilyDecode
  decide

end Sys2Proof

namespace Sys2Proof.Machine

/-! ## Frames of the updates and of the end of a tick -/

/-- Frames compose, each with its own list. -/
theorem Untouched.append {first second : List Part} {s t u : State} (h : Untouched first s t)
    (h' : Untouched second t u) : Untouched (first ++ second) s u :=
  (h.mono fun _ => List.mem_append_left second).trans (h'.mono fun _ => List.mem_append_right first)

theorem Untouched.setPc (s : State) (a : Word) : Untouched [] s (s.setPc a) := by
  constructor <;> simp

theorem Untouched.setPort (s : State) (p : Port) : Untouched [] s (s.setPort p) := by
  constructor <;> simp

theorem Untouched.setOut (s : State) (outcome : TickOutcome) (redraw : Bool) :
    Untouched [] s (s.setOut outcome redraw) :=
  Untouched.setPort s _

theorem Untouched.setStatus (s : State) (x : Status) : Untouched [.status] s (s.setStatus x) := by
  constructor <;> simp

theorem Untouched.setDt (s : State) (b : Byte) : Untouched [.dt] s (s.setDt b) := by
  constructor <;> simp

theorem Untouched.setSt (s : State) (b : Byte) : Untouched [.st] s (s.setSt b) := by
  constructor <;> simp

theorem Untouched.setDf (s : State) (b : Bool) : Untouched [.df] s (s.setDf b) := by
  constructor <;> simp

theorem Untouched.setKey (s : State) (k : Key) (b : Bool) : Untouched [.keys] s (s.setKey k b) := by
  constructor <;> simp

/-- The end of a tick writes the timers and no other part. -/
theorem Untouched.endTick (u : State) : Untouched [.dt, .st] u (endTick u) := by
  constructor <;> simp

/-- Where the step is not complete the end of a tick writes nothing (40_step_cycle.md R126). -/
theorem Untouched.endTick_of_not_completed {u : State} (h : u.stepCompleted = false) :
    Untouched [] u (Machine.endTick u) := by
  constructor <;> simp [endTick_dt, endTick_st, h]

theorem stepCompleted_of_out {u : State} {o : TickOut} (h : u.port.out = some o) :
    u.stepCompleted = completesStep o.outcome := by
  simp [State.stepCompleted, h]

@[simp] theorem stepCompleted_setOut (s : State) (outcome : TickOutcome) (redraw : Bool) :
    (s.setOut outcome redraw).stepCompleted = completesStep outcome := rfl

/-- A whole tick that raises a fatal condition changes nothing but `status` (60_exceptions.md R285). -/
theorem untouched_fatalTick (s : State) (cause : Cause) (info : Word) :
    Untouched [.status] s
      (endTick ((s.setStatus (.halted cause info)).setOut (.fatal cause info) false)) :=
  ((Untouched.setStatus s _).append (Untouched.setOut _ _ _)).append
    (Untouched.endTick_of_not_completed rfl)

/-! ## What a step fetches and reports -/

theorem fetches_of_decode {s : State} {i : Instr} (hrun : s.status = .running)
    (hpc : pcInRange s.pc = true) (hdec : decode s.fetchWord = .ok i) : Fetches s i where
  running := hrun
  low := ((pcInRange_iff s.pc).1 hpc).1
  high := ((pcInRange_iff s.pc).1 hpc).2
  decodes := hdec

/-- A state fetches one instruction at most. -/
theorem Fetches.unique {s : State} {i j : Instr} (hi : Fetches s i) (hj : Fetches s j) : i = j :=
  Except.ok.inj (hi.decodes.symm.trans hj.decodes)

/-- The port of the tick after a report: the inputs used up, whatever was reported. -/
theorem consumed_endTick {outcome : TickOutcome} {redraw : Bool} {s u : State}
    (h : Reports outcome redraw s u) : Consumed s.port (endTick u).port := by
  rw [endTick_port, h]
  exact ⟨rfl, rfl, rfl⟩

theorem Reports.out {outcome : TickOutcome} {redraw : Bool} {s u : State} (h : Reports outcome redraw s u) :
    u.port.out = some ⟨outcome, redraw⟩ := by
  rw [h]

/-- What an instruction reports: `Ok`, or an outcome that is not followed by the timer phase and asks for no
redraw. -/
theorem exec_reports {i : Instr} {s u : State} (h : exec i s = .next u) :
    ∃ outcome redraw, Reports outcome redraw s u ∧
      (outcome = .ok ∨ outcome ≠ .ok ∧ completesStep outcome = false ∧ redraw = false) := by
  rcases exec_cases i s u h with ⟨-, r, hport, -⟩ | ⟨rfl, -⟩ | ⟨cause, info, rfl⟩
  · exact ⟨.ok, r, hport, .inl rfl⟩
  · exact ⟨.waiting, false, rfl, .inr (by simp [completesStep])⟩
  · exact ⟨.fatal cause info, false, rfl, .inr (by simp [completesStep])⟩

/-! ## The step -/

/-- Settles O6: the checks of a step that come before `exec` are what `Fetches` says. -/
theorem stepRunsDecodedInstruction : Obligations.StepRunsDecodedInstruction :=
  fun _ _ _ hf hu => step_of_fetches hf hu

/-- Settles O7: the next state is the end of the tick of `u`, whose timer phase runs exactly on `Ok`, since
no instruction reports a decode failure. -/
theorem timersCountDownAfterCompletedSteps : Obligations.TimersCountDownAfterCompletedSteps := by
  intro s u i o hf hu ho
  obtain ⟨outcome, redraw, hrep, hkind⟩ := exec_reports hu
  obtain rfl : ⟨outcome, redraw⟩ = o := Option.some.inj (hrep.out.symm.trans ho)
  have hphase : u.stepCompleted = completesStep outcome := stepCompleted_of_out ho
  refine ⟨endTick u, step_of_fetches hf hu, ?_, ?_, Untouched.endTick u, endTick_pc u, ?_, ?_⟩
  · rintro rfl
    simp [endTick_dt, endTick_st, hphase, completesStep]
  · intro hne
    rcases hkind with hok | ⟨-, hstop, -⟩
    · exact absurd hok hne
    · simp [endTick_dt, endTick_st, hphase, hstop]
  · rw [endTick_port, Port.consume_out, ho]
  · rw [endTick_port]
    exact Port.consume_consumed u.port

/-- Settles O8: the step is the end of the tick of a report that has moved `pc` on. -/
theorem decodeFailureIsSkippedAndReported : Obligations.DecodeFailureIsSkippedAndReported := by
  rintro s e w hrun hlow hhigh rfl hdec
  have hstep := step_decodeFailure s e hrun ((pcInRange_iff s.pc).2 ⟨hlow, hhigh⟩) hdec
  refine ⟨_, hstep, by simp, ?_, ?_, ?_, by simp [State.fetchWord, wordOfBytes], ⟨rfl, rfl, rfl⟩⟩
  · simp [endTick_dt, completesStep]
  · simp [endTick_st, completesStep]
  · exact ((Untouched.setPc s _).append (Untouched.setOut _ _ _)).append (Untouched.endTick _)

/-- Settles O9: the step is the tick that raises `PcOutOfRange`. -/
theorem pcOutOfRangeHalts : Obligations.PcOutOfRangeHalts := by
  intro s hrun hpc
  have hrange : pcInRange s.pc = false := by
    rw [Bool.eq_false_iff, ne_eq, pcInRange_iff]
    omega
  exact ⟨_, step_outOfRange s hrun hrange, by simp, by simp, untouched_fatalTick s _ _, by simp, rfl, rfl, rfl⟩

/-- A tick on a halted core changes no part of the architectural state. -/
theorem step_halted_untouched {s : State} {cause : Cause} {info : Word} (h : s.status = .halted cause info) :
    ∃ t, step s = .next t ∧ Untouched [] s t ∧ t.pc = s.pc ∧
      t.port.out = some ⟨.halted cause info, false⟩ ∧ Consumed s.port t.port :=
  ⟨_, step_halted s cause info h,
    (Untouched.setOut s _ _).append (Untouched.endTick_of_not_completed rfl), by simp, by simp, rfl, rfl, rfl⟩

/-- Settles O10: the tick of a halted core only reports, and its report stops the timer phase. -/
theorem haltedTickChangesNothing : Obligations.HaltedTickChangesNothing :=
  fun _ _ _ h => step_halted_untouched h

/-- Settles O11: each of the four ways of a step ends in a report and in the end of the tick. -/
theorem everyTickAnswersAndReports : Obligations.EveryTickAnswersAndReports := by
  intro s
  rcases step_cases s with ⟨cause, info, -, h⟩ | ⟨-, -, h⟩ | ⟨e, -, -, -, h⟩ | ⟨i, u, -, -, -, hu, h⟩
  · exact ⟨_, ⟨.halted cause info, false⟩, h, by simp, ⟨rfl, rfl, rfl⟩, by simp⟩
  · exact ⟨_, ⟨.fatal .pcOutOfRange s.pc, false⟩, h, by simp, ⟨rfl, rfl, rfl⟩, by simp⟩
  · exact ⟨_, ⟨.decodeFailure s.fetchWord, false⟩, h, by simp, ⟨rfl, rfl, rfl⟩, by simp⟩
  · obtain ⟨outcome, redraw, hrep, hkind⟩ := exec_reports hu
    refine ⟨_, ⟨outcome, redraw⟩, h, by simp [hrep.out], consumed_endTick hrep, fun hredraw => ?_⟩
    rcases hkind with hok | ⟨-, -, hno⟩
    · exact hok
    · exact absurd hredraw (by simp [hno])

/-- An instruction reports a redraw exactly if it is CLS or DRW and completes. -/
theorem exec_redraw_iff {i : Instr} {s u : State} {o : TickOut} (h : exec i s = .next u)
    (ho : u.port.out = some o) :
    o.redraw = true ↔ o.outcome = .ok ∧ (i = .cls ∨ ∃ x y n, i = .drw x y n) := by
  rcases exec_cases i s u h with ⟨-, r, hport, hr⟩ | ⟨rfl, -⟩ | ⟨cause, info, rfl⟩
  · obtain rfl : ⟨.ok, r⟩ = o := by simpa [hport] using ho
    simpa using hr
  · obtain rfl : ⟨.waiting, false⟩ = o := by simpa using ho
    simp
  · obtain rfl : ⟨.fatal cause info, false⟩ = o := by simpa using ho
    simp

/-- Settles O12: the three ways of a step without an instruction report neither `Ok` nor a redraw. -/
theorem redrawReportedExactlyForDisplay : Obligations.RedrawReportedExactlyForDisplay := by
  intro s t o hstep ho
  rcases step_cases s with ⟨cause, info, -, h⟩ | ⟨-, -, h⟩ | ⟨e, -, -, -, h⟩ |
    ⟨i, u, hrun, hpc, hdec, hu, h⟩ <;> rw [hstep] at h <;> cases h
  · obtain rfl : ⟨.halted cause info, false⟩ = o := by simpa using ho
    simp
  · obtain rfl : ⟨.fatal .pcOutOfRange s.pc, false⟩ = o := by simpa using ho
    simp
  · obtain rfl : ⟨.decodeFailure s.fetchWord, false⟩ = o := by simpa using ho
    simp
  · have hf : Fetches s i := fetches_of_decode hrun hpc hdec
    rw [exec_redraw_iff hu (by simpa using ho)]
    refine and_congr_right fun _ => ⟨fun hi => ⟨i, hf, hi⟩, ?_⟩
    rintro ⟨j, hj, hdisplay⟩
    rwa [hf.unique hj]

/-- Settles O13: a running core is halted by the fetch or by its instruction, each a fatal tick. -/
theorem fatalTickChangesOnlyStatus : Obligations.FatalTickChangesOnlyStatus := by
  intro s t cause info hrun hstep hhalt
  rcases step_cases s with ⟨c, f, hs, -⟩ | ⟨-, -, h⟩ | ⟨e, -, -, -, h⟩ | ⟨i, u, -, -, -, hu, h⟩
  · simp [hrun] at hs
  · rw [hstep] at h; cases h
    obtain ⟨rfl, rfl⟩ : Cause.pcOutOfRange = cause ∧ s.pc = info := by simpa using hhalt
    exact ⟨untouched_fatalTick s _ _, by simp, by simp⟩
  · rw [hstep] at h; cases h
    simp [hrun] at hhalt
  · rw [hstep] at h; cases h
    rcases exec_cases i s u hu with ⟨hs, -⟩ | ⟨rfl, -⟩ | ⟨c, f, rfl⟩
    · simp [hs, hrun] at hhalt
    · simp [hrun] at hhalt
    · obtain ⟨rfl, rfl⟩ : c = cause ∧ f = info := by simpa using hhalt
      exact ⟨untouched_fatalTick s _ _, by simp, by simp⟩

end Sys2Proof.Machine

namespace Sys2Proof.Machine

/-! ## Who can halt, and who writes what, in the execute phase -/

/-- Read from the answer: an instruction that completes has set `pc` and reported. -/
theorem complete_next {target : Word} {redraw : Bool} {s t : State}
    (h : complete target redraw s = .next t) : t = (s.setPc target).setOut .ok redraw :=
  (Host.Outcome.next.inj h).symm

/-- A checked block halts a running core only where it is not empty and passes 0xFFF (20_memory.md R70). -/
theorem withBlock_halts {count : Nat} {s t u : State} {target : Word} {redraw : Bool} {cause : Cause}
    {info : Word} (h : withBlock count s (complete target redraw u) = .next t) (hu : u.status = .running)
    (ht : t.status = .halted cause info) :
    cause = .memOutOfRange ∧ info = BitVec.ofNat 16 (s.i.toNat + count - 1) ∧ 0 < count ∧
      0xFFF < s.i.toNat + count - 1 := by
  rcases withBlock_next h with h | ⟨hcount, hlast, rfl⟩
  · rw [complete_next h] at ht
    simp [hu] at ht
  · obtain ⟨rfl, rfl⟩ : Cause.memOutOfRange = cause ∧ _ = info := by simpa using ht
    exact ⟨rfl, rfl, hcount, hlast⟩

/-- Settles O14: RET and CALL halt by their own check of `SP`, the block instructions by the block check,
and every other instruction leaves the status. -/
theorem onlyListedInstructionsHalt : Obligations.OnlyListedInstructionsHalt := by
  intro i s t cause info hrun h ht
  cases i with
  | ret =>
    simp only [exec, execRet] at h
    split at h <;> cases h
    · obtain ⟨rfl, rfl⟩ : Cause.stackUnderflow = cause ∧ s.pc = info := by simpa using ht
      exact .inr (.inl ⟨rfl, rfl, rfl, ‹_›⟩)
    · simp [hrun] at ht
  | call nnn =>
    simp only [exec, execCall] at h
    split at h <;> cases h
    · simp [hrun] at ht
    · obtain ⟨rfl, rfl⟩ : Cause.stackOverflow = cause ∧ s.pc = info := by simpa using ht
      exact .inl ⟨nnn, rfl, rfl, rfl, by omega⟩
  | ldVxK x =>
    simp only [exec, execLdVxK] at h
    split at h <;> cases h <;> simp [hrun] at ht
  | drw x y n =>
    exact .inr (.inr ⟨n.toNat, .inl ⟨x, y, n, rfl, rfl⟩,
      withBlock_halts h (by simpa using hrun) ht⟩)
  | ldB x =>
    exact .inr (.inr ⟨3, .inr (.inl ⟨x, rfl, rfl⟩), withBlock_halts h (by simpa using hrun) ht⟩)
  | stRegs x =>
    exact .inr (.inr ⟨x.val + 1, .inr (.inr ⟨x, .inl rfl, rfl⟩),
      withBlock_halts h (by simpa using hrun) ht⟩)
  | ldRegs x =>
    exact .inr (.inr ⟨x.val + 1, .inr (.inr ⟨x, .inr rfl, rfl⟩),
      withBlock_halts h (by simpa using hrun) ht⟩)
  | _ => cases h; simp [State.setFlagged, hrun] at ht

/-- Settles O19: where an instruction stops it has written none of the stores, and where it completes the
update it made names the store. -/
theorem eachStoreHasItsOnlyWriters : Obligations.EachStoreHasItsOnlyWriters := by
  intro i s t h
  cases i with
  | ret => simp only [exec, execRet] at h; split at h <;> cases h <;> simp
  | call nnn => simp only [exec, execCall] at h; split at h <;> cases h <;> simp
  | ldVxK x => simp only [exec, execLdVxK] at h; split at h <;> cases h <;> simp
  | drw x y n | ldB x | stRegs x | ldRegs x =>
    rcases withBlock_next h with h | ⟨-, -, rfl⟩
    · rw [complete_next h]; simp
    · simp
  | _ => cases h; simp [State.setFlagged]

/-- A flag as a register value is 0 or 1 (10_state.md R22). -/
theorem flagByte_eq_zero_or_one (f : Bool) : flagByte f = 0 ∨ flagByte f = 1 := by
  cases f <;> simp [flagByte]

/-- The flag is written last, and so stands in VF for every `x` (42_alu.md R161). -/
@[simp] theorem State.setFlagged_regF (s : State) (x : Reg) (b : Byte) (f : Bool) :
    (s.setFlagged x b f).reg 15 = flagByte f := by
  simp [State.setFlagged]

/-- A register write changes VF only if it names it. -/
theorem eq_regF_of_setReg_ne {s : State} {x : Reg} {b : Byte} (h : (s.setReg x b).reg 15 ≠ s.reg 15) :
    x = 15 := by
  by_contra hne
  exact h (State.setReg_reg_ne s x b 15 (Ne.symm hne))

/-- LD_REGS changes VF only if the block reaches V15. -/
theorem eq_regF_of_loadRegs_ne {s : State} {x : Reg} {m : Memory} {a : Nat}
    (h : (s.loadRegs (readBlock m a (x.val + 1))).reg 15 ≠ s.reg 15) : x = 15 := by
  by_contra hne
  have hbelow : x.val ≠ 15 := fun he => hne (Fin.ext he)
  have hnone : (readBlock m a (x.val + 1))[(15 : Reg).val]? = none :=
    List.getElem?_eq_none (by rw [readBlock_length]; show x.val + 1 ≤ 15; omega)
  exact h (by rw [State.loadRegs_reg, hnone, Option.getD_none])

/-- Settles O20: VF changes by a flag, by DRW, or by a write that names it. -/
theorem flagRegisterHasItsOnlyWriters : Obligations.FlagRegisterHasItsOnlyWriters := by
  intro i s t h
  cases i with
  | ret => simp only [exec, execRet] at h; split at h <;> cases h <;> simp
  | call nnn => simp only [exec, execCall] at h; split at h <;> cases h <;> simp
  | ldVxK x =>
    simp only [exec, execLdVxK] at h
    split at h <;> cases h
    · simp
    · refine ⟨fun hne => ?_, by simp⟩
      obtain rfl := eq_regF_of_setReg_ne hne
      simp
  | ldImm x kk | addImm x kk | mov x y | or x y | and x y | xor x y | rnd x kk | ldVxDt x =>
    cases h
    refine ⟨fun hne => ?_, by simp⟩
    obtain rfl := eq_regF_of_setReg_ne hne
    simp
  | ldRegs x =>
    rcases withBlock_next h with h | ⟨-, -, rfl⟩
    · rw [complete_next h]
      refine ⟨fun hne => ?_, by simp⟩
      rw [State.setOut_reg, State.setPc_reg] at hne
      obtain rfl := eq_regF_of_loadRegs_ne hne
      simp
    · simp
  | add x y | sub x y | shr x y | subn x y | shl x y =>
    cases h
    simpa using flagByte_eq_zero_or_one _
  | drw x y n | ldB x | stRegs x =>
    rcases withBlock_next h with h | ⟨-, -, rfl⟩
    · rw [complete_next h]; simp
    · simp
  | _ => cases h; simp

/-! ## The invariant (10_state.md R36) -/

theorem State.setI_i_le (s : State) (a : Word) : (s.setI a).i.toNat ≤ 0xFFF := by
  rw [State.setI_i_toNat]
  omega

/-- Executing an instruction keeps `I` within 12 bits. -/
theorem exec_keeps_i {i : Instr} {s u : State} (hi : s.i.toNat ≤ 0xFFF) (h : exec i s = .next u) :
    u.i.toNat ≤ 0xFFF := by
  obtain ⟨hwriters, -⟩ := eachStoreHasItsOnlyWriters i s u h
  by_cases hsame : u.i = s.i
  · rwa [hsame]
  · rcases hwriters hsame with ⟨nnn, rfl⟩ | ⟨x, rfl⟩ | ⟨x, rfl⟩ <;> cases h <;>
      exact State.setI_i_le s _

/-- A push of a return address keeps the stack in range. -/
theorem StackOk.push {s : State} (h : StackOk s) {a : Word} (room : s.sp.val < 16)
    (ha : 0x202 ≤ a.toNat ∧ a.toNat ≤ 0x1000) : StackOk (s.push a room) := by
  intro j hj
  rw [State.push_slot]
  split
  · exact ha
  · next hne => exact h j (by rw [State.push_sp_val] at hj; omega)

theorem StackOk.pop {s : State} (h : StackOk s) : StackOk s.pop :=
  fun j hj => h j (by rw [State.pop_sp_val] at hj; omega)

/-- Executing an instruction that was fetched keeps the stack in range: `pc + 2` is 0x202 to 0x1000. -/
theorem exec_keeps_stack {i : Instr} {s u : State} (hs : StackOk s) (hf : Fetches s i)
    (h : exec i s = .next u) : StackOk u := by
  obtain ⟨-, hwriters, -⟩ := eachStoreHasItsOnlyWriters i s u h
  by_cases hsame : u.sp = s.sp ∧ u.stk = s.stk
  · obtain ⟨hsp, hstk⟩ := hsame
    unfold StackOk
    rwa [hsp, hstk]
  · rcases hwriters (not_and_or.1 hsame) with rfl | ⟨nnn, rfl⟩
    · simp only [exec, execRet] at h
      split at h <;> cases h
      · exact hs
      · exact hs.pop
    · simp only [exec, execCall] at h
      split at h <;> cases h
      · have hlow := hf.low
        have hhigh := hf.high
        exact hs.push ‹_› (by unfold State.following; bv_omega)
      · exact hs

/-- A checked block store keeps memory canonical: the block lies in memory where it is stored. -/
theorem withBlock_store_keeps_mem {s u : State} {bytes : List Byte} {target : Word}
    (hm : s.mem.wf = true)
    (h : withBlock bytes.length s
      (complete target false (s.setMem (storeBlock s.mem s.blockBase bytes))) = .next u) :
    u.mem.wf = true := by
  rcases withBlock_cases bytes.length s _ with ⟨hin, he⟩ | ⟨-, -, he⟩ <;> rw [he] at h <;> cases h
  · by_cases hempty : bytes.length = 0
    · rwa [List.length_eq_zero_iff.1 hempty]
    · exact storeBlock_wf bytes s.mem s.blockBase hm (by unfold State.blockBase memTop; omega)
  · exact hm

/-- Executing an instruction keeps memory canonical. -/
theorem exec_keeps_mem {i : Instr} {s u : State} (hm : s.mem.wf = true) (h : exec i s = .next u) :
    u.mem.wf = true := by
  obtain ⟨-, -, -, -, hwriters, -⟩ := eachStoreHasItsOnlyWriters i s u h
  by_cases hsame : u.mem = s.mem
  · rwa [hsame]
  · rcases hwriters hsame with ⟨x, rfl⟩ | ⟨x, rfl⟩
    · exact withBlock_store_keeps_mem (bytes := decimalDigits (s.reg x)) hm h
    · refine withBlock_store_keeps_mem (bytes := s.firstRegs x) (target := s.following) hm ?_
      rwa [State.firstRegs_length]

/-- A running state records no halt. -/
theorem haltOk_of_running {s : State} (h : s.status = .running) : HaltOk s := by
  simp [HaltOk, h]

/-- A halt that an instruction raises is recorded truly: `info` is the `pc`, or the last address of a block
of at most sixteen bytes at `I`. -/
theorem exec_haltOk {i : Instr} {s u : State} (hrun : s.status = .running) (hi : s.i.toNat ≤ 0xFFF)
    (h : exec i s = .next u) : HaltOk u := by
  rcases exec_cases i s u h with ⟨hs, -⟩ | ⟨rfl, -⟩ | ⟨cause, info, rfl⟩
  · exact haltOk_of_running (hs.trans hrun)
  · exact haltOk_of_running hrun
  · rcases onlyListedInstructionsHalt i s _ cause info hrun h rfl with
      ⟨nnn, -, rfl, rfl, hsp⟩ | ⟨-, rfl, rfl, hsp⟩ | ⟨count, hcount, rfl, rfl, hpos, hlast⟩
    · exact ⟨rfl, hsp⟩
    · exact ⟨rfl, hsp⟩
    · have hle : count ≤ 16 := by
        rcases hcount with ⟨x, y, n, -, rfl⟩ | ⟨x, -, rfl⟩ | ⟨x, -, rfl⟩ <;> omega
      have hinfo : (BitVec.ofNat 16 (s.i.toNat + count - 1)).toNat = s.i.toNat + count - 1 := by
        rw [BitVec.toNat_ofNat]; omega
      show 0x1000 ≤ (BitVec.ofNat 16 (s.i.toNat + count - 1)).toNat ∧
        (BitVec.ofNat 16 (s.i.toNat + count - 1)).toNat ≤ s.i.toNat + 15
      omega

/-- The end of a tick keeps the invariant; what boot asks for it meets by having ticked. -/
theorem inv_endTick {u : State} (hi : u.i.toNat ≤ 0xFFF) (hstack : StackOk u) (hmem : u.mem.wf = true)
    (hhalt : HaltOk u) : Inv (endTick u) where
  i := by rwa [endTick_i]
  stack := by simpa [StackOk] using hstack
  mem := by rwa [endTick_mem]
  halt := by simpa [HaltOk] using hhalt
  boot h := absurd (by rw [endTick_port]; rfl) h

/-- A step keeps the invariant. -/
theorem step_keeps_inv {s t : State} (h : Inv s) (hstep : step s = .next t) : Inv t := by
  obtain ⟨hi, hstack, hmem, hhalt, -⟩ := h
  rcases step_cases s with ⟨cause, info, -, he⟩ | ⟨-, hpc, he⟩ | ⟨e, hrun, -, -, he⟩ |
    ⟨i, u, hrun, hpc, hdec, hu, he⟩ <;> rw [hstep] at he <;> cases he
  · exact inv_endTick hi hstack hmem hhalt
  · rw [Bool.eq_false_iff, ne_eq, pcInRange_iff] at hpc
    exact inv_endTick hi hstack hmem ⟨rfl, by rw [State.setOut_pc, State.setStatus_pc]; omega⟩
  · exact inv_endTick hi hstack hmem (haltOk_of_running hrun)
  · exact inv_endTick (exec_keeps_i hi hu) (exec_keeps_stack hstack (fetches_of_decode hrun hpc hdec) hu)
      (exec_keeps_mem hmem hu) (exec_haltOk hrun hi hu)

/-- Settles O16: each clause of the invariant is kept by the execute phase and by the end of the tick. -/
theorem stepKeepsTheInvariant : Obligations.StepKeepsTheInvariant :=
  fun _ _ h hstep => step_keeps_inv h hstep

/-- The clauses of the invariant do not speak of the host's script of inputs. -/
theorem Inv.offer {s : State} (h : Inv s) (input : TickIn) : Inv (s.offer input) :=
  ⟨h.i, h.stack, h.mem, h.halt, h.boot⟩

/-- A reset, whatever script and count it leaves in the port, meets the invariant. -/
theorem inv_reset_setPort (p : Port) : Inv (State.reset.setPort p) where
  i := Nat.zero_le _
  stack _ hj := absurd hj (Nat.not_lt_zero _)
  mem := Memory.wf_reset
  halt := haltOk_of_running rfl
  boot _ := ⟨rfl, rfl⟩

/-- Settles O15: the reset state is a reset with the port at its reset value. -/
theorem resetMeetsTheInvariant : Obligations.ResetMeetsTheInvariant :=
  inv_reset_setPort Port.reset

/-- A load that is answered keeps the invariant: the image lies in memory, and the core has not ticked. -/
theorem hostLoad_keeps_inv {bytes : List Byte} {s t : State} (h : Inv s) (hload : hostLoad bytes s = .next t) :
    Inv t := by
  unfold hostLoad at hload
  split at hload
  · next hfresh =>
    split at hload
    · next hlen =>
      cases hload
      obtain ⟨hrun, -⟩ := h.boot (by simp [hfresh])
      have hmem : (storeBlock s.mem loadBase bytes).wf = true :=
        storeBlock_wf bytes s.mem loadBase h.mem (by unfold maxImage at hlen; unfold loadBase memTop; omega)
      exact ⟨h.i, h.stack, hmem, haltOk_of_running hrun, fun _ => ⟨hrun, rfl⟩⟩
    · cases hload
  · cases hload
  · cases hload

/-- Settles O59, action by action; a tick is a step with its inputs offered. -/
theorem hostActionsKeepTheInvariant : Obligations.HostActionsKeepTheInvariant := by
  intro a s t h hact
  cases a with
  | tick input => exact step_keeps_inv (h.offer input) hact
  | keyDown k | keyUp k | renderAck => cases hact; exact ⟨h.i, h.stack, h.mem, h.halt, h.boot⟩
  | load bytes => exact hostLoad_keeps_inv h hact
  | reset => cases hact; exact inv_reset_setPort _

/-! ## Sessions of the host -/

/-- A session that begins with an action goes on from the state that the action answers. -/
theorem hostRun_cons_next {a : HostAction} {rest : List HostAction} {s t : State}
    (h : hostRun (a :: rest) s = .next t) : ∃ u, hostAct a s = .next u ∧ hostRun rest u = .next t := by
  unfold hostRun at h
  split at h
  · next u hu => exact ⟨u, hu, h⟩
  · cases h
  · cases h

/-- A session from a state that meets the invariant stays in it. -/
theorem hostRun_keeps_inv {actions : List HostAction} {s t : State} (h : Inv s)
    (hrun : hostRun actions s = .next t) : Inv t := by
  induction actions generalizing s with
  | nil => cases hrun; exact h
  | cons a rest ih =>
    obtain ⟨u, hact, hrest⟩ := hostRun_cons_next hrun
    exact ih (hostActionsKeepTheInvariant a s u h hact) hrest

/-- Settles O17: the sessions begin at reset, which meets the invariant. -/
theorem sessionsStayInTheInvariant : Obligations.SessionsStayInTheInvariant :=
  fun _ _ h => hostRun_keeps_inv resetMeetsTheInvariant h

/-- An action other than a reset or a load leaves a halted core as it is, the dirty flag and the latch
aside (60_exceptions.md R286). -/
theorem hostAct_of_halted {a : HostAction} {s t : State} {cause : Cause} {info : Word}
    (hs : s.status = .halted cause info) (hreset : a ≠ .reset) (hload : ∀ bytes, a ≠ .load bytes)
    (h : hostAct a s = .next t) : t.pc = s.pc ∧ Untouched [.df, .keys] s t := by
  cases a with
  | tick input =>
    obtain ⟨u, hstep, huntouched, hpc, -⟩ := step_halted_untouched (s := s.offer input) hs
    obtain rfl : u = t := Host.Outcome.next.inj (hstep.symm.trans h)
    exact ⟨hpc, ((Untouched.setPort s _).append huntouched).mono (by simp)⟩
  | keyDown k => cases h; exact ⟨rfl, (Untouched.setKey s k true).mono (by simp)⟩
  | keyUp k => cases h; exact ⟨rfl, (Untouched.setKey s k false).mono (by simp)⟩
  | renderAck => cases h; exact ⟨rfl, (Untouched.setDf s false).mono (by simp)⟩
  | load bytes => exact absurd rfl (hload bytes)
  | reset => exact absurd rfl hreset

/-- Settles O18, by induction over the session. -/
theorem onlyResetLeavesHalted : Obligations.OnlyResetLeavesHalted := by
  intro actions
  induction actions with
  | nil =>
    intro s t cause info hs _ _ hrun
    cases hrun
    exact ⟨hs, rfl, Untouched.refl _ s⟩
  | cons a rest ih =>
    intro s t cause info hs hreset hload hrun
    obtain ⟨u, hact, hrest⟩ := hostRun_cons_next hrun
    obtain ⟨hpc, hsame⟩ := hostAct_of_halted hs (fun he => hreset (by simp [he]))
      (fun bytes he => hload bytes (by simp [he])) hact
    have hu : u.status = .halted cause info := (hsame.status (by simp)).trans hs
    obtain ⟨ht, hpc', hsame'⟩ := ih u t cause info hu (fun hm => hreset (List.mem_cons_of_mem a hm))
      (fun bytes hm => hload bytes (List.mem_cons_of_mem a hm)) hrest
    exact ⟨ht, hpc'.trans hpc, hsame.trans hsame'⟩

end Sys2Proof.Machine

namespace Sys2Proof.Machine

/-! ## What steers the machine: operands that agree -/

namespace SteersAlike

section
variable {s t : State} (h : SteersAlike s t)
include h

theorem reg (r : Reg) : s.reg r = t.reg r := by
  rw [State.reg, State.reg, h.v]

theorem following : s.following = t.following := by
  rw [State.following, State.following, h.pc]

theorem skipTarget (condition : Bool) : s.skipTarget condition = t.skipTarget condition := by
  rw [State.skipTarget, State.skipTarget, h.pc]

theorem blockBase : s.blockBase = t.blockBase := by
  rw [State.blockBase, State.blockBase, h.i]

theorem blockLast (count : Nat) : s.blockLast count = t.blockLast count := by
  rw [State.blockLast, State.blockLast, h.i]

theorem blockOk (count : Nat) : s.blockOk count = t.blockOk count := by
  rw [State.blockOk, State.blockOk, h.blockLast]

theorem firstRegs (x : Reg) : s.firstRegs x = t.firstRegs x := by
  rw [State.firstRegs, State.firstRegs, h.v]

theorem inRnd : s.inRnd = t.inRnd := by
  rw [State.inRnd, State.inRnd, h.inputs, h.ticks]

theorem inKeyDown : s.inKeyDown = t.inKeyDown := by
  rw [State.inKeyDown, State.inKeyDown, h.inputs]

theorem fetchWord : s.fetchWord = t.fetchWord := by
  rw [State.fetchWord, State.fetchWord, h.mem, h.pc]

theorem drawn (x y : Reg) (n : Nibble) : s.drawn x y n = t.drawn x y n := by
  rw [State.drawn, State.drawn, h.reg, h.reg, h.mem, h.blockBase, h.fb]

/-- The slot that a RET pops is in use, and so agrees. -/
theorem top (hsp : s.sp.val ≠ 0) : s.top = t.top := by
  have hlt : s.sp.val - 1 < 16 := by omega
  have hs := s.top_eq ⟨s.sp.val - 1, hlt⟩ (by show s.sp.val = s.sp.val - 1 + 1; omega)
  have ht := t.top_eq ⟨s.sp.val - 1, hlt⟩ (by rw [← h.sp]; show s.sp.val = s.sp.val - 1 + 1; omega)
  rw [hs, ht]
  exact h.slots _ (by show s.sp.val - 1 < s.sp.val; omega)

/-! ### Updates of states that agree -/

theorem setReg (x : Reg) {b c : Byte} (hb : b = c) : SteersAlike (s.setReg x b) (t.setReg x c) :=
  { h with v := by rw [State.setReg_v, State.setReg_v, h.v, hb] }

theorem setFlagged (x : Reg) {b c : Byte} {f g : Bool} (hb : b = c) (hf : f = g) :
    SteersAlike (s.setFlagged x b f) (t.setFlagged x c g) := by
  have hx := h.setReg x hb
  exact hx.setReg regF (by rw [hf])

theorem loadRegs (bytes : List Byte) : SteersAlike (s.loadRegs bytes) (t.loadRegs bytes) :=
  ⟨State.v_eq_of_reg _ _ fun r => by rw [State.loadRegs_reg, State.loadRegs_reg, h.reg], by simp [h.i],
    by simp [h.pc], by simpa using h.slots, by simp [h.sp], by simp [h.dt], by simp [h.mem], by simp [h.fb],
    by simp [h.keys], by simp [h.status], by simp [h.inputs], by simp [h.ticks]⟩

theorem setI {a b : Word} (ha : a = b) : SteersAlike (s.setI a) (t.setI b) :=
  { h with i := by rw [State.setI_i, State.setI_i, ha] }

theorem setPc {a b : Word} (ha : a = b) : SteersAlike (s.setPc a) (t.setPc b) :=
  { h with pc := ha }

theorem setDt {b c : Byte} (hb : b = c) : SteersAlike (s.setDt b) (t.setDt c) :=
  { h with dt := hb }

/-- The sound timer may be written with anything. -/
theorem setSt (b c : Byte) : SteersAlike (s.setSt b) (t.setSt c) :=
  { h with }

theorem setMem {m n : Memory} (hm : m = n) : SteersAlike (s.setMem m) (t.setMem n) :=
  { h with mem := hm }

theorem setFb {f g : Framebuffer} (hf : f = g) : SteersAlike (s.setFb f) (t.setFb g) :=
  { h with fb := hf }

theorem setDf (b c : Bool) : SteersAlike (s.setDf b) (t.setDf c) :=
  { h with }

theorem setStatus (x : Status) : SteersAlike (s.setStatus x) (t.setStatus x) :=
  { h with status := rfl }

theorem setPort {p q : Port} (hinputs : p.inputs = q.inputs) (hticks : p.ticks = q.ticks) :
    SteersAlike (s.setPort p) (t.setPort q) :=
  { h with inputs := hinputs, ticks := hticks }

theorem setOut (outcome : TickOutcome) (redraw : Bool) :
    SteersAlike (s.setOut outcome redraw) (t.setOut outcome redraw) :=
  h.setPort h.inputs h.ticks

theorem push {a b : Word} (room : s.sp.val < 16) (room' : t.sp.val < 16) (ha : a = b) :
    SteersAlike (s.push a room) (t.push b room') :=
  { h with
    sp := Fin.ext (by rw [State.push_sp_val, State.push_sp_val, h.sp])
    slots := fun j hj => by
      rw [State.push_sp_val] at hj
      rw [State.push_slot, State.push_slot, ← h.sp, ha]
      split
      · rfl
      · exact h.slots j (by omega) }

theorem pop : SteersAlike s.pop t.pop :=
  { h with
    sp := Fin.ext (by rw [State.pop_sp_val, State.pop_sp_val, h.sp])
    slots := fun j hj => h.slots j (by rw [State.pop_sp_val] at hj; omega) }

/-- The inputs of the tick are used up alike. -/
theorem setPort_consume {u w : State} (hu : SteersAlike u w) :
    SteersAlike (u.setPort s.port.consume) (w.setPort t.port.consume) :=
  hu.setPort (by simp only [Port.consume, h.inputs]) (by simp only [Port.consume, h.ticks])

/-- The end of a tick, where the two ticks have reported the same: the timer phase runs in both or in
neither. -/
theorem endTick (hout : s.port.out = t.port.out) : SteersAlike (endTick s) (endTick t) := by
  have hphase : s.stepCompleted = t.stepCompleted := by
    rw [State.stepCompleted, State.stepCompleted, hout]
  unfold Machine.endTick timerPhase
  rw [hphase]
  split
  · exact h.setPort_consume ((h.setDt (by rw [h.dt])).setSt _ _)
  · exact h.setPort_consume h

end

end SteersAlike

/-! ## Two answers that steer alike -/

/-- The states that two meanings answer agree in what steers the machine, and report the same. -/
def AnswersAlike (r₁ r₂ : Result) : Prop :=
  ∀ t₁ t₂, r₁ = .next t₁ → r₂ = .next t₂ → SteersAlike t₁ t₂ ∧ t₁.port.out = t₂.port.out

namespace SteersAlike

section
variable {s t : State} (h : SteersAlike s t)
include h

theorem answers_setOut (outcome : TickOutcome) (redraw : Bool) :
    AnswersAlike (.next (s.setOut outcome redraw)) (.next (t.setOut outcome redraw)) := by
  rintro _ _ ⟨⟩ ⟨⟩
  exact ⟨h.setOut outcome redraw, by simp⟩

theorem answers_complete {a b : Word} (ha : a = b) (redraw : Bool) :
    AnswersAlike (complete a redraw s) (complete b redraw t) :=
  (h.setPc ha).answers_setOut .ok redraw

theorem answers_raiseFatal (cause : Cause) {info info' : Word} (hinfo : info = info') :
    AnswersAlike (raiseFatal cause info s) (raiseFatal cause info' t) := by
  subst hinfo
  exact (h.setStatus _).answers_setOut _ false

theorem answers_withBlock (count : Nat) {body body' : Result} (hbody : AnswersAlike body body') :
    AnswersAlike (withBlock count s body) (withBlock count t body') := by
  unfold withBlock
  rw [h.blockOk]
  split
  · exact hbody
  · exact h.answers_raiseFatal _ (by rw [h.blockLast])

/-- An instruction steers alike from states that do: every operand it reads agrees, and what it writes it
writes to both. -/
theorem answers_exec (i : Instr) : AnswersAlike (exec i s) (exec i t) := by
  cases i with
  | cls => exact ((h.setFb rfl).setDf _ _).answers_complete h.following true
  | drw x y n =>
    have hdrawn := h.drawn x y n
    exact h.answers_withBlock _
      ((((h.setFb (by rw [hdrawn])).setReg regF (by rw [hdrawn])).setDf _ _).answers_complete h.following true)
  | ret =>
    simp only [exec, execRet]
    rw [h.sp]
    split
    · exact h.answers_raiseFatal _ h.pc
    · next hsp => exact h.pop.answers_complete (h.top (by rwa [h.sp])) false
  | call nnn =>
    simp only [exec, execCall]
    by_cases room : s.sp.val < 16
    · have room' : t.sp.val < 16 := by rwa [← h.sp]
      simp only [room, room', dif_pos]
      exact (h.push room room' h.following).answers_complete rfl false
    · have full : ¬t.sp.val < 16 := by rwa [← h.sp]
      simp only [room, full, dif_neg, not_false_eq_true]
      exact h.answers_raiseFatal _ h.pc
  | jp nnn => exact h.answers_complete rfl false
  | jpV0 nnn => exact h.answers_complete (by rw [h.reg]) false
  | seImm x kk | sneImm x kk | seReg x y n | sneReg x y n =>
    exact h.answers_complete (by simp only [h.reg, h.skipTarget]) false
  | skp x | sknp x => exact h.answers_complete (by simp only [h.reg, h.skipTarget, h.keys]) false
  | ldImm x kk | addImm x kk | mov x y | or x y | and x y | xor x y | rnd x kk | ldVxDt x =>
    exact (h.setReg x (by simp only [h.reg, h.inRnd, h.dt])).answers_complete h.following false
  | add x y | sub x y | shr x y | subn x y | shl x y =>
    exact (h.setFlagged x (by simp only [h.reg]) (by simp only [h.reg])).answers_complete h.following false
  | ldVxK x =>
    simp only [exec, execLdVxK]
    rw [h.inKeyDown]
    split
    · exact h.answers_setOut .waiting false
    · exact (h.setReg x rfl).answers_complete h.following false
  | ldDtVx x => exact (h.setDt (h.reg x)).answers_complete h.following false
  | ldStVx x => exact (h.setSt _ _).answers_complete h.following false
  | ldI nnn | addI x | ldF x =>
    exact (h.setI (by simp only [h.reg, h.i])).answers_complete h.following false
  | ldB x | stRegs x =>
    exact h.answers_withBlock _
      ((h.setMem (by simp only [h.mem, h.blockBase, h.reg, h.firstRegs])).answers_complete h.following false)
  | ldRegs x =>
    simp only [exec, execLdRegs]
    rw [h.mem, h.blockBase]
    exact h.answers_withBlock _ ((h.loadRegs _).answers_complete h.following false)

/-- The checks before the execute phase read nothing but what agrees. -/
theorem answers_tickBody : AnswersAlike (tickBody s) (tickBody t) := by
  unfold tickBody
  rw [h.status]
  split
  · exact h.answers_setOut _ false
  · unfold fetchDecodeExecute
    rw [h.pc, h.fetchWord]
    split
    · split
      · exact (h.setPc (by rw [h.pc])).answers_setOut _ false
      · exact h.answers_exec _
    · exact h.answers_raiseFatal _ rfl

end

end SteersAlike

/-- A step that answers has ended the tick of the state that its body answered. -/
theorem step_next {s t : State} (h : step s = .next t) : ∃ u, tickBody s = .next u ∧ endTick u = t := by
  unfold step tick at h
  cases hbody : tickBody s with
  | next u => rw [hbody] at h; exact ⟨u, rfl, Host.Outcome.next.inj h⟩
  | fault f => cases f
  | refused r => rw [hbody] at h; cases h

/-- Settles O21: the bodies of the two ticks answer alike and report the same, so their ends agree too. -/
theorem outputsDoNotSteerTheMachine : Obligations.OutputsDoNotSteerTheMachine := by
  intro s₁ s₂ t₁ t₂ h h₁ h₂
  obtain ⟨u₁, hu₁, rfl⟩ := step_next h₁
  obtain ⟨u₂, hu₂, rfl⟩ := step_next h₂
  obtain ⟨halike, hout⟩ := h.answers_tickBody u₁ u₂ hu₁ hu₂
  exact halike.endTick hout

end Sys2Proof.Machine

namespace Sys2Proof

/-! ## The words of the instructions, as the patterns of 30_encoding.md R94 write them -/

/-- A word written as a pattern with one register: the fixed digits as one number, then `x`. -/
theorem decode_pattern_x {i : Instr} {x : Reg} {digits : Nat} (op : Nibble) (kk : Byte)
    (hform : encode i = formXkk op x kk) (hdigits : 0x1000 * op.toNat + kk.toNat = digits) :
    decode (BitVec.ofNat 16 (digits + 0x100 * x.val)) = .ok i := by
  rw [← hdigits, ← formXkk_eq_pattern, ← hform, decode_encode]

/-- A word written as a pattern with two registers: the fixed digits as one number, then `x` and `y`. -/
theorem decode_pattern_xy {i : Instr} {x y : Reg} {digits : Nat} (op n : Nibble)
    (hform : encode i = formXyn op x y n) (hdigits : 0x1000 * op.toNat + n.toNat = digits) :
    decode (BitVec.ofNat 16 (digits + 0x100 * x.val + 0x10 * y.val)) = .ok i := by
  rw [← hdigits, ← decode_encode i, hform, formXyn]
  congr 2
  omega

end Sys2Proof

namespace Sys2Proof.Machine

/-! ## The stack: RET and CALL (41_flow.md R141, R143) -/

theorem Untouched.pop (s : State) : Untouched [.sp] s s.pop := by
  constructor <;> simp

/-- A push writes `SP` and the slot at `SP`. -/
theorem Untouched.push (s : State) (a : Word) (room : s.sp.val < 16) {j : Fin 16} (hj : s.sp.val = j.val) :
    Untouched [.sp, .slot j] s (s.push a room) := by
  constructor
  case slot =>
    intro k hk
    have hne : k.val ≠ s.sp.val := fun he => hk (by simp [Fin.ext (he.trans hj)])
    rw [State.push_slot, if_neg hne]
  all_goals simp

/-- A pop after a push undoes it but for the slot. -/
theorem Untouched.push_pop (s : State) (a : Word) (room : s.sp.val < 16) {j : Fin 16}
    (hj : s.sp.val = j.val) : Untouched [.slot j] s (s.push a room).pop := by
  have hframe := (Untouched.push s a room hj).append (Untouched.pop (s.push a room))
  constructor
  case slot => exact fun k hk => hframe.slot k (by simpa using hk)
  case sp => exact fun _ => Fin.ext (by simp)
  all_goals simp

theorem execRet_pops {s : State} (hsp : s.sp.val ≠ 0) :
    exec .ret s = .next ((s.pop.setPc s.top).setOut .ok false) := by
  simp [exec, execRet, hsp]

theorem execCall_pushes (nnn : Addr12) {s : State} (room : s.sp.val < 16) :
    exec (.call nnn) s = .next (((s.push (s.pc + 2) room).setPc (addrOf nnn)).setOut .ok false) := by
  simp [exec, execCall, room, State.following]

/-- Settles O22: with a slot in use the top is the address, with none `StackUnderflow` is raised. -/
theorem returnPopsOrUnderflows : Obligations.ReturnPopsOrUnderflows := by
  refine ⟨decode_encode .ret, fun s => ⟨fun j hj => ?_, fun hzero => ?_⟩⟩
  · exact ⟨_, execRet_pops (by omega), s.top_eq j hj, by simp [hj], (Untouched.pop s).complete _ _, rfl⟩
  · obtain ⟨t, hraise, hhalts⟩ := raiseFatal_halts .stackUnderflow s.pc s
    exact ⟨t, by simpa only [exec, execRet, hzero, if_pos] using hraise, hhalts⟩

/-- Settles O23: with room the following address is pushed, with none `StackOverflow` is raised. -/
theorem callPushesOrOverflows : Obligations.CallPushesOrOverflows := by
  intro nnn
  refine ⟨decode_encode (.call nnn), fun s => ⟨fun j hj => ?_, fun hfull => ?_⟩⟩
  · have room : s.sp.val < 16 := by omega
    have hslot : (s.push (s.pc + 2) room).stk[j] = s.pc + 2 := by rw [State.push_slot, if_pos hj.symm]
    exact ⟨_, execCall_pushes nnn room, addrOf_toNat nnn, by simp [hj], hslot,
      (Untouched.push s _ room hj).complete _ _, rfl⟩
  · obtain ⟨t, hraise, hhalts⟩ := raiseFatal_halts .stackOverflow s.pc s
    exact ⟨t, by simpa [exec, execCall, hfull] using hraise, hhalts⟩

/-- Settles O24: the RET pops what the CALL pushed. -/
theorem callThenReturnComesBack : Obligations.CallThenReturnComesBack := by
  intro nnn s t j hj h
  have room : s.sp.val < 16 := by omega
  rw [execCall_pushes nnn room] at h
  cases h
  have hslot : (s.push (s.pc + 2) room).stk[j] = s.pc + 2 := by rw [State.push_slot, if_pos hj.symm]
  exact ⟨_, execRet_pops (by simp), s.push_top _ room, hslot,
    ((Untouched.push_pop s _ room hj).complete _ _).complete _ _⟩

/-! ## Jumps and skips (41_flow.md R142, R146 to R148) -/

/-- A jump writes `pc` and no part of the state; where the target is out of range, a running core halts at
the next fetch. -/
theorem jump_completes (target : Word) (s : State) :
    ∃ t, complete target false s = .next t ∧ t.pc = target ∧ Untouched [] s t ∧ Reports .ok false s t ∧
      (s.status = .running → (target.toNat < 0x200 ∨ 0xFFE < target.toNat) →
        ∃ u, step t = .next u ∧ u.status = .halted .pcOutOfRange t.pc) := by
  refine ⟨_, complete_eq _ _ _, rfl, (Untouched.refl [] s).complete _ _, rfl, fun hrun hrange => ?_⟩
  obtain ⟨u, hstep, hstatus, -⟩ := pcOutOfRangeHalts ((s.setPc target).setOut .ok false) hrun hrange
  exact ⟨u, hstep, hstatus⟩

/-- Settles O25: JP jumps to `nnn`, which is out of range below 0x200 and at 0xFFF. -/
theorem jumpSetsPc : Obligations.JumpSetsPc := by
  intro nnn
  refine ⟨decode_encode (.jp nnn), fun s => ?_⟩
  obtain ⟨t, hexec, hpc, hframe, hreport, hfetch⟩ := jump_completes (addrOf nnn) s
  exact ⟨t, hexec, by rw [hpc, addrOf_toNat], hframe, hreport,
    fun hrun hrange => hfetch hrun (by rw [addrOf_toNat]; omega)⟩

@[simp] theorem wordOf_toNat (b : Byte) : (wordOf b).toNat = b.toNat :=
  BitVec.toNat_setWidth_of_le (by decide)

/-- The sum of R147 fits 16 bits, and so is the sum of the numbers. -/
theorem offsetTarget_toNat (nnn : Addr12) (v0 : Byte) :
    (offsetTarget nnn v0).toNat = nnn.toNat + v0.toNat := by
  rw [offsetTarget, BitVec.toNat_add, addrOf_toNat, wordOf_toNat]
  omega

/-- Settles O26: JP V0 jumps to the sum. -/
theorem jumpWithOffsetAddsV0 : Obligations.JumpWithOffsetAddsV0 := by
  intro nnn
  refine ⟨decode_encode (.jpV0 nnn), fun s => ?_⟩
  obtain ⟨t, hexec, hpc, hframe, hreport, hfetch⟩ := jump_completes (offsetTarget nnn (s.reg 0)) s
  exact ⟨t, hexec, by rw [hpc, offsetTarget_toNat], hframe, hreport,
    fun hrun hrange => hfetch hrun (by rwa [← hpc])⟩

/-- Settles O28: the low nibble stands in the instruction, and its meaning does not read it. -/
theorem registerSkipsIgnoreTheLowNibble : Obligations.RegisterSkipsIgnoreTheLowNibble := by
  intro x y low s
  exact ⟨decode_encode (.seReg x y low), decode_encode (.sneReg x y low),
    skip_completes (s.reg x == s.reg y) s beq_iff_eq.2 beq_eq_false_iff_ne.2,
    skip_completes (s.reg x != s.reg y) s bne_iff_ne.2 bne_eq_false_iff_eq.2⟩

/-! ## Arithmetic and logic (42_alu.md R165 to R173) -/

/-- Settles O32: each of the three writes the byte of its operation, whose bits are those of the operands
combined. -/
theorem logicIsBitwiseWithoutFlag : Obligations.LogicIsBitwiseWithoutFlag := by
  intro x y s
  refine ⟨?_, ?_, ?_⟩
  · obtain ⟨t, hexec, hreg, hrest⟩ := setReg_completes x (s.reg x ||| s.reg y) s
    exact ⟨t, hexec, fun b => by rw [hreg, BitVec.getLsbD_or], hrest⟩
  · obtain ⟨t, hexec, hreg, hrest⟩ := setReg_completes x (s.reg x &&& s.reg y) s
    exact ⟨t, hexec, fun b => by rw [hreg, BitVec.getLsbD_and], hrest⟩
  · obtain ⟨t, hexec, hreg, hrest⟩ := setReg_completes x (s.reg x ^^^ s.reg y) s
    exact ⟨t, hexec, fun b => by rw [hreg, BitVec.getLsbD_xor], hrest⟩

/-- An instruction that writes a result to `Vx` and then a flag to VF: the result stands in `Vx` unless `x`
is F, and the flag in VF always (R161). -/
theorem setFlagged_completes (x : Reg) (b : Byte) (f : Bool) (s : State) :
    ∃ t, complete s.following false (s.setFlagged x b f) = .next t ∧ (x ≠ 15 → t.reg x = b) ∧
      t.reg 15 = flagByte f ∧ t.pc = s.pc + 2 ∧ Untouched [.reg x, .reg 15] s t ∧ Reports .ok false s t := by
  refine ⟨_, complete_eq _ _ _, fun hx => ?_, State.setFlagged_regF s x b f, rfl, ?_, rfl⟩
  · rw [State.setOut_reg, State.setPc_reg, State.setFlagged_reg, if_neg hx, if_pos rfl]
  · exact ((Untouched.setReg s x b).append (Untouched.setReg _ 15 (flagByte f))).complete _ _

/-- Settles O33: the sum of the bytes, and the carry for the flag. -/
theorem addSetsCarry : Obligations.AddSetsCarry := by
  intro x y
  refine ⟨decode_pattern_xy 0x8 0x4 rfl rfl, fun s => ?_⟩
  obtain ⟨t, hexec, hreg, hflag, hrest⟩ :=
    setFlagged_completes x (s.reg x + s.reg y) (carryOut (s.reg x) (s.reg y)) s
  exact ⟨t, hexec, fun hx => by rw [hreg hx, BitVec.toNat_add], by simp [hflag, flagByte, carryOut], hrest⟩

/-- A difference of bytes is the difference of the numbers modulo 256. -/
theorem byte_sub_toNat_eq_emod (a b : Byte) : ((a - b).toNat : Int) = (a.toNat - b.toNat : Int) % 256 := by
  rw [BitVec.toNat_sub]
  omega

/-- Settles O34: the difference of the bytes, and no borrow for the flag. -/
theorem subtractSetsNoBorrow : Obligations.SubtractSetsNoBorrow := by
  intro x y
  refine ⟨decode_pattern_xy 0x8 0x5 rfl rfl, fun s => ?_⟩
  obtain ⟨t, hexec, hreg, hflag, hrest⟩ :=
    setFlagged_completes x (s.reg x - s.reg y) (noBorrow (s.reg x) (s.reg y)) s
  exact ⟨t, hexec, fun hx => by rw [hreg hx, byte_sub_toNat_eq_emod], by simp [hflag, flagByte, noBorrow], hrest⟩

/-- Settles O35: as O34 with the operands exchanged. -/
theorem reverseSubtractSetsNoBorrow : Obligations.ReverseSubtractSetsNoBorrow := by
  intro x y
  refine ⟨decode_pattern_xy 0x8 0x7 rfl rfl, fun s => ?_⟩
  obtain ⟨t, hexec, hreg, hflag, hrest⟩ :=
    setFlagged_completes x (s.reg y - s.reg x) (noBorrow (s.reg y) (s.reg x)) s
  exact ⟨t, hexec, fun hx => by rw [hreg hx, byte_sub_toNat_eq_emod], by simp [hflag, flagByte, noBorrow], hrest⟩

theorem flagByte_toNat (f : Bool) : (flagByte f).toNat = f.toNat := by
  cases f <;> rfl

/-- The bit that SHR shifts out is the remainder of the halving. -/
theorem bitOutRight_toNat (a : Byte) : (bitOutRight a).toNat = a.toNat % 2 := by
  rw [bitOutRight, ← BitVec.testBit_toNat, Nat.toNat_testBit, Nat.pow_zero, Nat.div_one]

/-- The bit that SHL shifts out is what the doubling carries past 255. -/
theorem bitOutLeft_toNat (a : Byte) : (bitOutLeft a).toNat = a.toNat / 128 := by
  rw [bitOutLeft, ← BitVec.testBit_toNat, Nat.toNat_testBit]
  omega

/-- Settles O36: SHR halves and SHL doubles, each with the bit that leaves the byte for the flag. -/
theorem shiftsMoveTheLostBitToTheFlag : Obligations.ShiftsMoveTheLostBitToTheFlag := by
  intro x y s
  refine ⟨decode_pattern_xy 0x8 0x6 rfl rfl, decode_pattern_xy 0x8 0xE rfl rfl, ?_, ?_⟩
  · obtain ⟨t, hexec, hreg, hflag, hrest⟩ :=
      setFlagged_completes x (s.reg x >>> 1) (bitOutRight (s.reg x)) s
    exact ⟨t, hexec, fun hx => by rw [hreg hx, BitVec.toNat_ushiftRight, Nat.shiftRight_one],
      by rw [hflag, flagByte_toNat, bitOutRight_toNat], hrest⟩
  · obtain ⟨t, hexec, hreg, hflag, hrest⟩ :=
      setFlagged_completes x (s.reg x <<< 1) (bitOutLeft (s.reg x)) s
    exact ⟨t, hexec,
      fun hx => by rw [hreg hx, BitVec.toNat_shiftLeft, Nat.shiftLeft_eq, Nat.mul_comm, Nat.pow_one],
      by rw [hflag, flagByte_toNat, bitOutLeft_toNat], hrest⟩

/-- Settles O37: the draw is the byte that the tick delivers. -/
theorem randomIsTheDrawUnderTheMask : Obligations.RandomIsTheDrawUnderTheMask := by
  intro x kk s
  obtain ⟨t, hexec, hreg, hrest⟩ := setReg_completes x (s.inRnd &&& kk) s
  exact ⟨t, hexec, ⟨s.inRnd, hreg⟩, fun input rest hscript => by rw [hreg, State.inRnd, hscript], hrest⟩

/-- Settles O39: `I` takes the sum modulo 4096. -/
theorem addToIndexWrapsWithoutFlag : Obligations.AddToIndexWrapsWithoutFlag := by
  intro x
  refine ⟨decode_pattern_x 0xF 0x1E rfl rfl, fun s => ?_⟩
  obtain ⟨t, hexec, hi, hrest⟩ := setI_completes (s.i + wordOf (s.reg x)) s
  have hsum : t.i.toNat = (s.i.toNat + (s.reg x).toNat) % 4096 := by
    rw [hi, BitVec.toNat_add, wordOf_toNat]; omega
  exact ⟨t, hexec, hsum, hrest⟩

end Sys2Proof.Machine

namespace Sys2Proof.Machine

/-! ## Blocks of memory (43_index_memory.md R197 to R200, 20_memory.md R69, R70) -/

/-- A block store leaves everything but the bytes of the block. -/
theorem Untouched.storeBlock (s : State) (a : Nat) (bytes : List Byte) :
    Untouched [.bytes a bytes.length] s (s.setMem (storeBlock s.mem a bytes)) := by
  constructor
  case mem =>
    exact fun b hb => read_storeBlock_outside bytes s.mem a b (hb a bytes.length (List.mem_singleton_self _))
  all_goals simp

/-- An instruction that stores a block of bytes at `I`, where the block lies in memory. -/
theorem store_completes (bytes : List Byte) (s : State) (hwf : s.mem.wf = true)
    (hfits : s.i.toNat + bytes.length ≤ 0x1000) :
    ∃ t, withBlock bytes.length s
        (complete s.following false (s.setMem (storeBlock s.mem s.blockBase bytes))) = .next t ∧
      (∀ k (hk : k < bytes.length), t.mem.read (s.i.toNat + k) = bytes[k]) ∧ t.pc = s.pc + 2 ∧
      Untouched [.bytes s.i.toNat bytes.length] s t ∧ Reports .ok false s t :=
  ⟨_, withBlock_inside _ s _ (by omega), fun k hk => read_storeBlock_inside bytes s.mem _ hwf hfits k hk, rfl,
    (Untouched.storeBlock s _ bytes).complete _ _, rfl⟩

/-- An instruction whose block passes 0xFFF halts with the last address, and nothing of it is done. -/
theorem block_halts {count last : Nat} (s : State) (body : Result) (hcount : count ≠ 0)
    (hlast : s.i.toNat + count - 1 = last) (hpast : 0xFFF < last) :
    ∃ t, withBlock count s body = .next t ∧ Halts .memOutOfRange (BitVec.ofNat 16 last) s t := by
  subst hlast
  rw [withBlock_outside count s body hcount hpast]
  exact raiseFatal_halts _ _ s

/-- Settles O41: the three digits are the block that is stored. -/
theorem decimalDigitsAreStored : Obligations.DecimalDigitsAreStored := by
  intro x
  refine ⟨decode_pattern_x 0xF 0x33 rfl rfl, fun s => ⟨fun hwf hfits => ?_, fun hpast => ?_⟩⟩
  · obtain ⟨t, hexec, hread, hrest⟩ := store_completes (decimalDigits (s.reg x)) s hwf (Nat.succ_le_succ hfits)
    have hbyte : (s.reg x).toNat < 256 := (s.reg x).isLt
    refine ⟨t, hexec, ?_, ?_, ?_, hrest⟩
    · rw [← Nat.add_zero s.i.toNat, hread 0 (by simp [decimalDigits])]
      simp only [decimalDigits, List.getElem_cons_zero, BitVec.toNat_ofNat]
      omega
    · rw [hread 1 (by simp [decimalDigits])]
      simp only [decimalDigits, List.getElem_cons_succ, List.getElem_cons_zero, BitVec.toNat_ofNat]
      omega
    · rw [hread 2 (by simp [decimalDigits])]
      simp only [decimalDigits, List.getElem_cons_succ, List.getElem_cons_zero, BitVec.toNat_ofNat]
      omega
  · exact block_halts s _ (by decide) rfl hpast

/-- ST_REGS where the block lies in memory (R198). -/
theorem execStRegs_stores (x : Reg) (s : State) (hwf : s.mem.wf = true) (hfits : s.i.toNat + x.val ≤ 0xFFF) :
    ∃ t, exec (.stRegs x) s = .next t ∧
      (∀ k : Reg, k ≤ x → t.mem.read (s.i.toNat + k.val) = s.reg k) ∧
      t.pc = s.pc + 2 ∧ Untouched [.bytes s.i.toNat (x.val + 1)] s t ∧ Reports .ok false s t := by
  obtain ⟨t, hexec, hread, hrest⟩ :=
    store_completes (s.firstRegs x) s hwf (by rw [State.firstRegs_length]; omega)
  rw [State.firstRegs_length] at hexec hrest
  refine ⟨t, hexec, fun k hk => ?_, hrest⟩
  have hlen : k.val < (s.firstRegs x).length := by
    rw [State.firstRegs_length]
    exact Nat.lt_succ_of_le hk
  rw [hread k.val hlen, State.firstRegs_getElem]

/-- Settles O42: the block that is stored is V0 to Vx. -/
theorem registersAreStored : Obligations.RegistersAreStored := by
  intro x
  refine ⟨decode_pattern_x 0xF 0x55 rfl rfl, fun s => ⟨execStRegs_stores x s, fun hpast => ?_⟩⟩
  exact block_halts s _ (Nat.succ_ne_zero _) rfl hpast

/-- A load of registers leaves everything but the registers. -/
theorem Untouched.loadRegs (s : State) (bytes : List Byte) :
    Untouched ((List.finRange 16).map Part.reg) s (s.loadRegs bytes) := by
  constructor
  case reg => exact fun r hr => absurd (List.mem_map_of_mem (List.mem_finRange r)) hr
  all_goals simp

/-- LD_REGS where the block lies in memory (R199). -/
theorem execLdRegs_loads (x : Reg) (s : State) (hfits : s.i.toNat + x.val ≤ 0xFFF) :
    ∃ t, exec (.ldRegs x) s = .next t ∧
      (∀ k : Reg, k ≤ x → t.reg k = s.mem.read (s.i.toNat + k.val)) ∧
      (∀ k : Reg, x < k → t.reg k = s.reg k) ∧ t.pc = s.pc + 2 ∧
      Untouched ((List.finRange 16).map Part.reg) s t ∧ Reports .ok false s t := by
  refine ⟨_, withBlock_inside _ s _ (by omega), fun k hk => ?_, fun k hk => ?_, rfl,
    (Untouched.loadRegs s _).complete _ _, rfl⟩
  · rw [State.setOut_reg, State.setPc_reg, State.loadRegs_reg,
      readBlock_getElem? s.mem _ _ k.val (Nat.lt_succ_of_le hk), Option.getD_some, State.blockBase]
  · rw [State.setOut_reg, State.setPc_reg, State.loadRegs_reg,
      List.getElem?_eq_none (by rw [readBlock_length]; exact hk), Option.getD_none]

/-- Settles O43: the registers up to Vx are loaded from the block. -/
theorem registersAreLoaded : Obligations.RegistersAreLoaded := by
  intro x
  refine ⟨decode_pattern_x 0xF 0x65 rfl rfl, fun s => ⟨execLdRegs_loads x s, fun hpast => ?_⟩⟩
  exact block_halts s _ (Nat.succ_ne_zero _) rfl hpast

/-- Storing V0 to Vx and loading them back restores every register: those up to Vx from memory, those above
by keeping them (R200). -/
theorem store_then_load_restores (x : Reg) (s : State) (hwf : s.mem.wf = true)
    (hfits : s.i.toNat + x.val ≤ 0xFFF) :
    ∃ t u, exec (.stRegs x) s = .next t ∧ exec (.ldRegs x) t = .next u ∧ u.v = s.v := by
  obtain ⟨t, hstore, hread, -, hst, -⟩ := execStRegs_stores x s hwf hfits
  have hi : t.i = s.i := hst.i (by simp)
  obtain ⟨u, hload, hupto, habove, -⟩ := execLdRegs_loads x t (by rwa [hi])
  refine ⟨t, u, hstore, hload, State.v_eq_of_reg u s fun k => ?_⟩
  rcases Nat.lt_or_ge x.val k.val with hlt | hle
  · rw [habove k hlt, hst.reg k (by simp)]
  · rw [hupto k hle, hi, hread k hle]

/-- Loading V0 to Vx and storing them back leaves every byte: those of the block are stored as they were
read, the others not at all (R200). -/
theorem load_then_store_restores (x : Reg) (s : State) (hwf : s.mem.wf = true)
    (hfits : s.i.toNat + x.val ≤ 0xFFF) :
    ∃ t u, exec (.ldRegs x) s = .next t ∧ exec (.stRegs x) t = .next u ∧
      ∀ a, u.mem.read a = s.mem.read a := by
  obtain ⟨t, hload, hupto, -, -, hld, -⟩ := execLdRegs_loads x s hfits
  have hi : t.i = s.i := hld.i (by simp)
  obtain ⟨u, hstore, hread, -, hst, -⟩ := execStRegs_stores x t (exec_keeps_mem hwf hload) (by rwa [hi])
  rw [hi] at hread hst
  refine ⟨t, u, hload, hstore, fun a => ?_⟩
  by_cases hin : s.i.toNat ≤ a ∧ a ≤ s.i.toNat + x.val
  · obtain ⟨k, rfl⟩ := Nat.exists_eq_add_of_le hin.1
    have hk : k < 16 := by omega
    have hle : (⟨k, hk⟩ : Reg) ≤ x := Fin.le_def.2 (by show k ≤ x.val; omega)
    exact (hread ⟨k, hk⟩ hle).trans (hupto ⟨k, hk⟩ hle)
  · rw [hst.mem a ?_, hld.mem a (by simp)]
    intro base count hb
    obtain ⟨rfl, rfl⟩ : base = s.i.toNat ∧ count = x.val + 1 := by simpa using hb
    omega

/-- Settles O44, each round trip by its own lemma. -/
theorem storeAndLoadRoundTrip : Obligations.StoreAndLoadRoundTrip :=
  fun x s hwf hfits => ⟨store_then_load_restores x s hwf hfits, load_then_store_restores x s hwf hfits⟩

end Sys2Proof.Machine

namespace Sys2Proof.Machine

/-! ## A sprite as the list of the points it plots (44_display.md R212, R213) -/

/-- Settles O45: the laws of `clear` and `xor_pixel`, with coordinates that lie on the screen. -/
theorem xorPixelInvertsOneCell : Obligations.XorPixelInvertsOneCell := by
  refine ⟨pixelAt_clearFb, fun fb x y px py hpx hpy => ?_⟩
  refine ⟨(pixelAt_wraps fb x y).symm, fun hcell => ?_, fun hcell => ?_⟩
  · rw [pixelAt_xorPixel, Nat.mod_eq_of_lt hpx, Nat.mod_eq_of_lt hpy]
    simp [hcell]
  · rw [pixelAt_xorPixel, Nat.mod_eq_of_lt hpx, Nat.mod_eq_of_lt hpy, ← Bool.decide_and]
    simp [hcell]

/-- The cell that a point's coordinates name: both wrap. -/
def wrap (p : Nat × Nat) : Nat × Nat := (p.1 % 64, p.2 % 32)

theorem wrap_fst_lt (p : Nat × Nat) : (wrap p).1 < 64 := Nat.mod_lt _ (by decide)

theorem wrap_snd_lt (p : Nat × Nat) : (wrap p).2 < 32 := Nat.mod_lt _ (by decide)

/-- `xor_pixel` at each point in turn. -/
def plotPoints (points : List (Nat × Nat)) (c : Canvas) : Canvas :=
  points.foldl (fun c p => plotPixel p.1 p.2 c) c

/-- The points of a row: the columns whose bit is 1. -/
def rowPoints (b : Byte) (x0 y : Nat) : List (Nat × Nat) :=
  ((List.range 8).filter fun col => b.getLsbD (7 - col)).map fun col => (x0 + col, y)

/-- The points of a sprite whose rows begin at row `y`. -/
def spritePoints (x0 : Nat) : Nat → List Byte → List (Nat × Nat)
  | _, [] => []
  | y, b :: rest => rowPoints b x0 y ++ spritePoints x0 (y + 1) rest

@[simp] theorem plotPoints_nil (c : Canvas) : plotPoints [] c = c := rfl

@[simp] theorem plotPoints_cons (p : Nat × Nat) (points : List (Nat × Nat)) (c : Canvas) :
    plotPoints (p :: points) c = plotPoints points (plotPixel p.1 p.2 c) := rfl

theorem plotPoints_append (points more : List (Nat × Nat)) (c : Canvas) :
    plotPoints (points ++ more) c = plotPoints more (plotPoints points c) :=
  List.foldl_append

theorem plotRow_eq (b : Byte) (x0 y : Nat) (c : Canvas) :
    plotRow b x0 y c = plotPoints (rowPoints b x0 y) c := by
  rw [plotPoints, rowPoints, List.foldl_map, List.foldl_filter]
  rfl

theorem plotRows_eq (x0 y : Nat) (bytes : List Byte) (c : Canvas) :
    plotRows x0 y bytes c = plotPoints (spritePoints x0 y bytes) c := by
  induction bytes generalizing y c with
  | nil => rfl
  | cons b rest ih => rw [plotRows, ih, plotRow_eq, spritePoints, plotPoints_append]

theorem mem_rowPoints {b : Byte} {x0 y : Nat} {p : Nat × Nat} :
    p ∈ rowPoints b x0 y ↔ ∃ col, col < 8 ∧ b.getLsbD (7 - col) = true ∧ p = (x0 + col, y) := by
  simp only [rowPoints, List.mem_map, List.mem_filter, List.mem_range]
  exact ⟨fun ⟨col, ⟨hcol, hbit⟩, he⟩ => ⟨col, hcol, hbit, he.symm⟩,
    fun ⟨col, hcol, hbit, he⟩ => ⟨col, ⟨hcol, hbit⟩, he.symm⟩⟩

/-- A point of a sprite lies in one of its rows, at a column whose bit there is 1. -/
theorem mem_spritePoints {x0 y : Nat} {bytes : List Byte} {p : Nat × Nat} :
    p ∈ spritePoints x0 y bytes ↔
      ∃ row col, ∃ h : row < bytes.length, col < 8 ∧ bytes[row].getLsbD (7 - col) = true ∧
        p = (x0 + col, y + row) := by
  induction bytes generalizing y with
  | nil => simp [spritePoints]
  | cons b rest ih =>
    rw [spritePoints, List.mem_append, mem_rowPoints, ih]
    constructor
    · rintro (⟨col, hcol, hbit, rfl⟩ | ⟨row, col, hrow, hcol, hbit, rfl⟩)
      · exact ⟨0, col, Nat.succ_pos _, hcol, hbit, rfl⟩
      · exact ⟨row + 1, col, Nat.succ_lt_succ hrow, hcol, hbit, Prod.ext rfl (Nat.add_right_comm y 1 row)⟩
    · rintro ⟨row, col, hrow, hcol, hbit, rfl⟩
      cases row with
      | zero => exact .inl ⟨col, hcol, hbit, rfl⟩
      | succ row =>
        exact .inr ⟨row, col, Nat.lt_of_succ_lt_succ hrow, hcol, hbit,
          Prod.ext rfl (Nat.add_right_comm y 1 row).symm⟩

theorem rowPoints_nodup (b : Byte) (x0 y : Nat) : (rowPoints b x0 y).Nodup := by
  refine (List.nodup_range.filter _).map fun c d h => ?_
  simpa using h

theorem spritePoints_nodup (x0 y : Nat) (bytes : List Byte) : (spritePoints x0 y bytes).Nodup := by
  induction bytes generalizing y with
  | nil => exact List.nodup_nil
  | cons b rest ih =>
    refine (rowPoints_nodup b x0 y).append (ih (y + 1)) fun p hp hp' => ?_
    obtain ⟨_, -, -, rfl⟩ := mem_rowPoints.1 hp
    obtain ⟨row, _, -, -, -, he⟩ := mem_spritePoints.1 hp'
    obtain ⟨-, hrows⟩ := Prod.mk.inj he
    omega

/-- A sprite of at most 32 rows names no cell twice: it is narrower than the screen and no taller. -/
theorem spritePoints_wrap_nodup (x0 y : Nat) (bytes : List Byte) (h : bytes.length ≤ 32) :
    ((spritePoints x0 y bytes).map wrap).Nodup := by
  refine (spritePoints_nodup x0 y bytes).map_on fun p hp q hq he => ?_
  obtain ⟨r, c, hr, hc, -, rfl⟩ := mem_spritePoints.1 hp
  obtain ⟨r', c', hr', hc', -, rfl⟩ := mem_spritePoints.1 hq
  simp only [wrap, Prod.mk.injEq] at he ⊢
  omega

/-! ## What plotting points that name no cell twice does -/

/-- Plotting a point inverts the cell it names and no other. -/
theorem pixelAt_plotPixel (p : Nat × Nat) (c : Canvas) {px py : Nat} (hpx : px < 64) (hpy : py < 32) :
    pixelAt (plotPixel p.1 p.2 c).fb px py = (pixelAt c.fb px py ^^ decide ((px, py) = wrap p)) := by
  rw [plotPixel, pixelAt_xorPixel, Nat.mod_eq_of_lt hpx, Nat.mod_eq_of_lt hpy, ← Bool.decide_and]
  simp only [wrap, Prod.mk.injEq]

/-- Plotting a point records a hit if the cell it names was lit. -/
theorem hit_plotPixel (p : Nat × Nat) (c : Canvas) :
    (plotPixel p.1 p.2 c).hit = (c.hit || pixelAt c.fb (wrap p).1 (wrap p).2) := by
  rw [plotPixel, collides, wrap, pixelAt_wraps]

/-- A cell is inverted exactly if one of the points names it. -/
theorem pixelAt_plotPoints (points : List (Nat × Nat)) (c : Canvas) (hnodup : (points.map wrap).Nodup)
    {px py : Nat} (hpx : px < 64) (hpy : py < 32) :
    pixelAt (plotPoints points c).fb px py =
      (pixelAt c.fb px py ^^ decide ((px, py) ∈ points.map wrap)) := by
  induction points generalizing c with
  | nil => simp
  | cons p rest ih =>
    obtain ⟨hnot, hrest⟩ := List.nodup_cons.1 hnodup
    rw [plotPoints_cons, ih _ hrest, pixelAt_plotPixel p c hpx hpy, Bool.xor_assoc, List.map_cons]
    congr 1
    by_cases hp : (px, py) = wrap p
    · rw [hp]; simp [hnot]
    · simp [hp]

/-- A hit is recorded exactly if one of the named cells was lit to begin with: no point plotted before has
inverted it. -/
theorem hit_plotPoints (points : List (Nat × Nat)) (c : Canvas) (hnodup : (points.map wrap).Nodup) :
    (plotPoints points c).hit = true ↔
      c.hit = true ∨ ∃ p ∈ points.map wrap, pixelAt c.fb p.1 p.2 = true := by
  induction points generalizing c with
  | nil => simp
  | cons p rest ih =>
    obtain ⟨hnot, hrest⟩ := List.nodup_cons.1 hnodup
    have hkept : ∀ q ∈ rest.map wrap, pixelAt (plotPixel p.1 p.2 c).fb q.1 q.2 = pixelAt c.fb q.1 q.2 := by
      intro q hq
      obtain ⟨q', -, rfl⟩ := List.mem_map.1 hq
      have hne : wrap q' ≠ wrap p := fun he => hnot (he ▸ hq)
      rw [pixelAt_plotPixel p c (wrap_fst_lt q') (wrap_snd_lt q')]
      simp [hne]
    rw [plotPoints_cons, ih _ hrest, hit_plotPixel, Bool.or_eq_true, or_assoc, List.map_cons,
      List.exists_mem_cons_iff]
    exact or_congr_right (or_congr_right (exists_congr fun q => and_congr_right fun hq => by rw [hkept q hq]))

/-! ## DRW -/

/-- The cells that a sprite covers are those its points name. -/
theorem spriteCovers_iff (s : State) (x0 y0 n px py : Nat) :
    SpriteCovers s x0 y0 n px py ↔
      (px, py) ∈ (spritePoints x0 y0 (readBlock s.mem s.blockBase n)).map wrap := by
  have hbyte : ∀ row (h : row < (readBlock s.mem s.blockBase n).length),
      (readBlock s.mem s.blockBase n)[row] = s.mem.read (s.i.toNat + row) := fun row h =>
    Option.some.inj ((List.getElem?_eq_getElem h).symm.trans
      (readBlock_getElem? _ _ _ row (by rwa [readBlock_length] at h)))
  simp only [SpriteCovers, List.mem_map, mem_spritePoints, hbyte, readBlock_length]
  constructor
  · rintro ⟨row, col, hrow, hcol, hx, hy, hbit⟩
    exact ⟨_, ⟨row, col, hrow, hcol, hbit, rfl⟩, Prod.ext hx hy⟩
  · rintro ⟨_, ⟨row, col, hrow, hcol, hbit, rfl⟩, he⟩
    exact ⟨row, col, hrow, hcol, congrArg Prod.fst he, congrArg Prod.snd he, hbit⟩

/-- The cell `(px, py)` is covered by the sprite that DRW Vx, Vy, n draws in `s`. -/
abbrev State.covers (s : State) (x y : Reg) (n : Nibble) (px py : Nat) : Prop :=
  SpriteCovers s (s.reg x).toNat (s.reg y).toNat n.toNat px py

section
variable (s : State) (x y : Reg) (n : Nibble)

theorem State.drawn_eq : s.drawn x y n = plotPoints (spritePoints (s.reg x).toNat (s.reg y).toNat
    (readBlock s.mem s.blockBase n.toNat)) ⟨s.fb, false⟩ :=
  plotRows_eq _ _ _ _

/-- The points of a drawn sprite name no cell twice. -/
theorem State.drawn_nodup : ((spritePoints (s.reg x).toNat (s.reg y).toNat
    (readBlock s.mem s.blockBase n.toNat)).map wrap).Nodup :=
  spritePoints_wrap_nodup _ _ _ (by rw [readBlock_length]; omega)

open Classical in
/-- A draw inverts exactly the cells that the sprite covers. -/
theorem State.pixelAt_drawn {px py : Nat} (hpx : px < 64) (hpy : py < 32) :
    pixelAt (s.drawn x y n).fb px py = (pixelAt s.fb px py ^^ decide (s.covers x y n px py)) := by
  rw [State.drawn_eq, pixelAt_plotPoints _ _ (s.drawn_nodup x y n) hpx hpy]
  congr 1
  exact decide_eq_decide.2 (spriteCovers_iff ..).symm

/-- A draw records a hit exactly if a cell that the sprite covers was lit. -/
theorem State.hit_drawn : (s.drawn x y n).hit = true ↔
    ∃ px py, px < 64 ∧ py < 32 ∧ pixelAt s.fb px py = true ∧ s.covers x y n px py := by
  rw [State.drawn_eq, hit_plotPoints _ _ (s.drawn_nodup x y n)]
  simp only [State.covers, spriteCovers_iff]
  constructor
  · rintro (hfalse | ⟨p, hp, hlit⟩)
    · exact absurd hfalse Bool.false_ne_true
    · obtain ⟨q, -, rfl⟩ := List.mem_map.1 hp
      exact ⟨_, _, wrap_fst_lt q, wrap_snd_lt q, hlit, hp⟩
  · rintro ⟨px, py, -, -, hlit, hp⟩
    exact .inr ⟨(px, py), hp, hlit⟩

/-- A draw onto cells that are all unlit records no hit. -/
theorem State.hit_drawn_eq_false
    (hdark : ∀ px py, px < 64 → py < 32 → s.covers x y n px py → pixelAt s.fb px py = false) :
    (s.drawn x y n).hit = false := by
  rw [Bool.eq_false_iff, ne_eq, State.hit_drawn]
  rintro ⟨px, py, hpx, hpy, hlit, hcov⟩
  exact Bool.false_ne_true ((hdark px py hpx hpy hcov).symm.trans hlit)

/-- DRW where the rows lie in memory (R212). -/
theorem execDrw_draws (hfits : n.toNat = 0 ∨ s.i.toNat + n.toNat - 1 ≤ 0xFFF) :
    ∃ t, exec (.drw x y n) s = .next t ∧ t.fb = (s.drawn x y n).fb ∧
      t.reg 15 = flagByte (s.drawn x y n).hit ∧ t.df = true ∧ t.pc = s.pc + 2 ∧
      Untouched [.reg 15, .fb, .df] s t ∧ Reports .ok true s t :=
  ⟨_, withBlock_inside _ s _ hfits, rfl, by simp, rfl, rfl,
    ((Untouched.setReg s 15 _).append (Untouched.setFb_setDf _ _ true)).complete _ _, rfl⟩

end

/-- Settles O47: the draw is that of the sprite's points, VF its hit. -/
theorem drawXorsTheSprite : Obligations.DrawXorsTheSprite := by
  intro x y n
  refine ⟨decode_encode (.drw x y n), fun s hfits => ?_⟩
  obtain ⟨t, hexec, hfb, hvf, hdf, hpc, hframe, hreport⟩ := execDrw_draws s x y n hfits
  refine ⟨t, hexec, fun px py hpx hpy => ⟨fun hcov => ?_, fun hcov => ?_⟩, fun hlit => ?_, fun hlit => ?_,
    hdf, hpc, hframe, hreport⟩
  · simp [hfb, s.pixelAt_drawn x y n hpx hpy, hcov]
  · simp [hfb, s.pixelAt_drawn x y n hpx hpy, hcov]
  · rw [hvf, (s.hit_drawn x y n).2 hlit]; rfl
  · rw [hvf, Bool.eq_false_iff.2 (mt (s.hit_drawn x y n).1 hlit)]; rfl

/-- Settles O48: the check comes before the draw. -/
theorem drawPastMemoryHalts : Obligations.DrawPastMemoryHalts :=
  fun _ _ _ s hn hpast => block_halts s _ hn rfl hpast

/-- Two states with the same coordinates, `I` and bytes draw the same sprite at the same place. -/
theorem covers_iff_of_untouched {written : List Part} {s t : State} (h : Untouched written s t)
    (hi : Part.i ∉ written) (hmem : ∀ base count, Part.bytes base count ∉ written) {x y : Reg}
    (hx : t.reg x = s.reg x) (hy : t.reg y = s.reg y) (n : Nibble) (px py : Nat) :
    t.covers x y n px py ↔ s.covers x y n px py := by
  have hread : ∀ a, t.mem.read a = s.mem.read a := fun a =>
    h.mem a fun base count hb => absurd hb (hmem base count)
  simp only [State.covers, SpriteCovers, hx, hy, h.i hi, hread]

/-- Settles O49: the second draw covers the same cells, so it inverts them back, and it finds lit exactly
the covered cells that the first one found unlit. -/
theorem drawingTwiceRestores : Obligations.DrawingTwiceRestores := by
  intro x y n s t u hfits hst hx hy htu
  obtain ⟨t', ht', hfb, hvf, -, -, hframe, -⟩ := execDrw_draws s x y n hfits
  obtain rfl : t' = t := Host.Outcome.next.inj (ht'.symm.trans hst)
  obtain ⟨u', hu', hfb', hvf', -⟩ := execDrw_draws t' x y n (by rwa [hframe.i (by simp)])
  obtain rfl : u' = u := Host.Outcome.next.inj (hu'.symm.trans htu)
  have hcovers := covers_iff_of_untouched hframe (by simp) (by simp) hx hy n
  have hfirst : ∀ px py, px < 64 → py < 32 → s.covers x y n px py →
      pixelAt t'.fb px py = !pixelAt s.fb px py := fun px py hpx hpy hcov => by
    simp [hfb, s.pixelAt_drawn x y n hpx hpy, hcov]
  refine ⟨fb_eq_of_pixels _ _ fun px py hpx hpy => ?_, fun hsome hdark => ⟨?_, ?_⟩, fun hnone => ⟨?_, ?_⟩⟩
  · rw [hfb', t'.pixelAt_drawn x y n hpx hpy, hfb, s.pixelAt_drawn x y n hpx hpy,
      decide_eq_decide.2 (hcovers px py), Bool.xor_assoc, Bool.xor_self, Bool.xor_false]
  · rw [hvf, s.hit_drawn_eq_false x y n hdark]; rfl
  · obtain ⟨px, py, hpx, hpy, hcov⟩ := hsome
    have hlit : pixelAt t'.fb px py = true := by
      rw [hfirst px py hpx hpy hcov, hdark px py hpx hpy hcov]; rfl
    rw [hvf', (t'.hit_drawn x y n).2 ⟨px, py, hpx, hpy, hlit, (hcovers px py).2 hcov⟩]; rfl
  · rw [hvf, s.hit_drawn_eq_false x y n fun px py hpx hpy hcov => absurd ⟨px, py, hpx, hpy, hcov⟩ hnone]; rfl
  · rw [hvf', t'.hit_drawn_eq_false x y n fun px py hpx hpy hcov =>
      absurd ⟨px, py, hpx, hpy, (hcovers px py).1 hcov⟩ hnone]; rfl

end Sys2Proof.Machine

namespace Sys2Proof.Machine

/-! ## The key wait and the timers (45_input_timers.md R235 to R239) -/

/-- A key code is below 16, and so is the byte that holds it. -/
theorem keyCode_toNat (k : Key) : (keyCode k).toNat = k.val := by
  rw [keyCode, BitVec.toNat_ofNat]
  omega

/-- The key wait where the tick offers no event. -/
theorem execLdVxK_waits (x : Reg) {s : State} (h : s.inKeyDown = none) :
    exec (.ldVxK x) s = .next (s.setOut .waiting false) := by
  simp [exec, execLdVxK, h]

/-- Settles O51: an event completes the instruction; without one it only reports, and its report stops the
timer phase. -/
theorem keyWaitCompletesOnlyOnAnEvent : Obligations.KeyWaitCompletesOnlyOnAnEvent := by
  intro x s
  refine ⟨fun k draw rest hin => ?_, fun draw rest hin => ?_⟩
  · have hevent : s.inKeyDown = some k := by rw [State.inKeyDown, hin]
    obtain ⟨t, hexec, hreg, hrest⟩ := setReg_completes x (keyCode k) s
    exact ⟨t, by simpa only [exec, execLdVxK, hevent] using hexec, by rw [hreg, keyCode_toNat], hrest⟩
  · have hnone : s.inKeyDown = none := by rw [State.inKeyDown, hin]
    have hexec := execLdVxK_waits x hnone
    refine ⟨⟨_, hexec, rfl, Untouched.setOut s _ _, rfl⟩, fun hf => ?_⟩
    exact ⟨_, step_of_fetches hf hexec, by simp,
      (Untouched.setOut s _ _).append (Untouched.endTick_of_not_completed rfl), by simp, rfl, rfl, rfl⟩

/-- A whole step that fetches an instruction which completes with `Ok`: the timers count down once. -/
theorem step_of_completes {s t : State} {i : Instr} (hf : Fetches s i) (hexec : exec i s = .next t)
    {redraw : Bool} (hreport : Reports .ok redraw s t) :
    ∃ u, step s = .next u ∧ (∀ r, u.reg r = t.reg r) ∧ u.dt.toNat = t.dt.toNat - 1 ∧
      u.st.toNat = t.st.toNat - 1 := by
  have hphase : t.stepCompleted = true := stepCompleted_of_out hreport.out
  exact ⟨_, step_of_fetches hf hexec, endTick_reg t, by simp [endTick_dt, hphase],
    by simp [endTick_st, hphase]⟩

/-- Settles O52: the execute phase reads DT, and the end of the tick counts it down. -/
theorem timerReadGivesTheValueBeforeTheStep : Obligations.TimerReadGivesTheValueBeforeTheStep := by
  intro x
  refine ⟨decode_pattern_x 0xF 0x07 rfl rfl, fun s => ?_⟩
  obtain ⟨t, hexec, hreg, hpc, hframe, hreport⟩ := setReg_completes x s.dt s
  refine ⟨⟨t, hexec, hreg, hpc, hframe, hreport⟩, fun hf => ?_⟩
  obtain ⟨u, hstep, hsame, hdt, -⟩ := step_of_completes hf hexec hreport
  exact ⟨u, hstep, by rw [hsame, hreg], by rw [hdt, hframe.dt (by simp)]⟩

/-- LD DT, Vx (R238). -/
theorem execLdDtVx_sets (x : Reg) (s : State) :
    ∃ t, exec (.ldDtVx x) s = .next t ∧ t.dt = s.reg x ∧ t.pc = s.pc + 2 ∧
      Untouched [.dt] s t ∧ Reports .ok false s t :=
  ⟨_, complete_eq _ _ _, rfl, rfl, (Untouched.setDt s _).complete _ _, rfl⟩

/-- LD ST, Vx (R239). -/
theorem execLdStVx_sets (x : Reg) (s : State) :
    ∃ t, exec (.ldStVx x) s = .next t ∧ t.st = s.reg x ∧ t.pc = s.pc + 2 ∧
      Untouched [.st] s t ∧ Reports .ok false s t :=
  ⟨_, complete_eq _ _ _, rfl, rfl, (Untouched.setSt s _).complete _ _, rfl⟩

/-- Settles O53: the execute phase sets the timer, and the end of the same tick counts it down. -/
theorem timerWritesCountDownInTheSameTick : Obligations.TimerWritesCountDownInTheSameTick := by
  intro x s
  obtain ⟨t, hexec, hdt, hrest⟩ := execLdDtVx_sets x s
  obtain ⟨u, hexec', hst, hrest'⟩ := execLdStVx_sets x s
  refine ⟨decode_pattern_x 0xF 0x15 rfl rfl, decode_pattern_x 0xF 0x18 rfl rfl, ⟨t, hexec, hdt, hrest⟩,
    ⟨u, hexec', hst, hrest'⟩, fun hf => ?_, fun hf => ?_⟩
  · obtain ⟨w, hstep, -, hcount, -⟩ := step_of_completes hf hexec hrest.2.2
    exact ⟨w, hstep, by rw [hcount, hdt]⟩
  · obtain ⟨w, hstep, -, -, hcount⟩ := step_of_completes hf hexec' hrest'.2.2
    exact ⟨w, hstep, by rw [hcount, hst]⟩

/-! ## Reset (10_state.md R35, 50_interfaces.md R260) -/

/-- Above the font an unlisted byte is `MEM_FILL`: there is no seventeenth glyph. -/
theorem unlisted_above_font {a : Nat} (h : 80 ≤ a) : unlisted a = 0x00 := by
  have hglyph : font.length ≤ a / glyphBytes := by
    show 16 ≤ a / 5
    omega
  rw [unlisted, List.getD_eq_default _ _ hglyph]
  rfl

/-- Settles O54: the table of R35, read off the reset state. -/
theorem resetStateIsAsTabled : Obligations.ResetStateIsAsTabled := by
  refine ⟨fun r => ?_, rfl, rfl, rfl, fun j => ?_, rfl, rfl, fun a ha => unlisted_above_font ha,
    pixelAt_clearFb, rfl, fun k => ?_, rfl⟩
  · simp [State.reg, State.reset]
  · simp [State.reset]
  · simp [State.reset]

/-- Settles O55: eighty closed bytes, read from the font table. -/
theorem resetMemoryHoldsTheFont : Obligations.ResetMemoryHoldsTheFont := by
  unfold Obligations.ResetMemoryHoldsTheFont
  decide

/-- Settles O57: a reset is the reset state but for the port. -/
theorem resetRestoresTheResetState : Obligations.ResetRestoresTheResetState :=
  fun _ => ⟨Untouched.setPort State.reset _, rfl, rfl, rfl, rfl⟩

/-! ## Load, key events and the render acknowledge (50_interfaces.md R253, R256, R259) -/

/-- Settles O56: an image that fits is a block stored at 0x200, and a longer one is refused. -/
theorem loadCopiesTheImageOrRefuses : Obligations.LoadCopiesTheImageOrRefuses := by
  intro bytes s hfresh hwf
  refine ⟨fun hlen => ?_, fun hlong => ?_⟩
  · have hload : hostLoad bytes s = .next (loadImage bytes s) := by
      simp [hostLoad, hfresh, maxImage, hlen]
    have hfits : loadBase + bytes.length ≤ memTop + 1 := by
      unfold loadBase memTop
      omega
    have hframe : Untouched [.bytes 0x200 bytes.length] s (loadImage bytes s) :=
      ((Untouched.storeBlock s loadBase bytes).append (Untouched.setPc _ _)).append (Untouched.setPort _ _)
    exact ⟨_, hload, fun k hk => read_storeBlock_inside bytes s.mem loadBase hwf hfits k hk, rfl, hframe,
      storeBlock_wf bytes s.mem loadBase hwf hfits⟩
  · simp [hostLoad, hfresh, maxImage, Nat.not_le.2 hlong]

/-- Settles O58: the two key events write one slot of the latch, and the acknowledge writes the dirty flag. -/
theorem keyEventsAndAcknowledgeWriteOneThing : Obligations.KeyEventsAndAcknowledgeWriteOneThing := by
  intro s k
  have hother : ∀ (l : Key) (b : Bool), l ≠ k → (s.setKey k b).keys[l] = s.keys[l] := fun l b hl => by
    simp [Fin.val_inj, hl.symm]
  refine ⟨⟨?_, ?_⟩, fun l hl => ⟨hother l true hl, hother l false hl⟩, Untouched.setKey s k true,
    Untouched.setKey s k false, rfl, Untouched.setDf s false, rfl, rfl, rfl⟩
  · simp [hostKeyDown]
  · simp [hostKeyUp]

end Sys2Proof.Machine
